-- ==== Sys2Proof/Word.lean ====
section
/-! DEFINITION. The word types of the RMD128-SALSA20 block (00_scope.md R7, R8, R9): every datapath register is a
32-bit word, a byte lane is 8 bits, the block counter and the staged counter value are 64 bits. Addition, XOR, AND,
OR and complement of R9 are the bit-vector operations themselves (`+`, `^^^`, `&&&`, `|||`, `~~~`), all mod 2^32. -/

namespace Sys2Proof

/-- A 32-bit datapath word (R7, R9). -/
abbrev Word := BitVec 32

/-- One byte lane of a word (R10, R50). -/
abbrev Byte := BitVec 8

/-- A 64-bit value: the block counter CTR and the staged counter value (R7, R26). -/
abbrev Word64 := BitVec 64

end Sys2Proof
end

