-- ==== Sys2Proof/Config.lean ====
section
/-! DEFINITION. What a platform fixes and the spec leaves OPEN (00_scope.md R7, 10_state.md R33, 93 Part B): the
window's base address `BASE`. It is a parameter of the model, an argument of the functions that speak of host bus
addresses, and never state. `CMD_LATENCY`, the other open parameter, is not modelled: no rule depends on it
(R7, R240; log entry 7). The constant tables are no configuration (R33, D38); they stand in
`Machine/RmdTables.lean` and `Machine/SalsaTables.lean`. The spec leaves no value free, so there is no free value. -/

namespace Sys2Proof

/-- The platform's choice of the window base (R53): a host bus address that is a multiple of 512. -/
structure Config where
  /-- `BASE`, the host bus address of the window's first byte. -/
  base : Nat
  /-- "`BASE` ... must be a multiple of 512" (R53). -/
  aligned : base % 512 = 0

/-- The size of the register window in bytes (R7, R53). -/
def Config.windowSize : Nat := 512

end Sys2Proof
end

