-- ==== Sys2Proof/Syntax.lean ====
section
/-! DEFINITION. The command set of the block, one constructor per row of `spec/opcode_table.json` (30_encoding.md
R83). The operands of a command are the fields of its command word and nothing else (R82): every other operand is a
register read when the command executes. -/

namespace Sys2Proof

/-- The six commands of the block (R83). -/
inductive Instr where
  /-- NOP (40_control.md R100). -/
  | nop
  /-- RMD_INIT (41_ripemd128.md R131). -/
  | rmdInit
  /-- RMD_COMPRESS (41_ripemd128.md R132). -/
  | rmdCompress
  /-- SALSA_INIT (42_salsa20.md R170) with `KLEN = v[21:16]` and `NLEN = v[27:24]`, both in bytes. -/
  | salsaInit (klen : BitVec 6) (nlen : BitVec 4)
  /-- SALSA_SEEK (42_salsa20.md R171). -/
  | salsaSeek
  /-- SALSA_XOR (42_salsa20.md R172) with `LEN = v[14:8]`, the window length in bytes. -/
  | salsaXor (len : BitVec 7)
  deriving DecidableEq, Repr

end Sys2Proof
end

