-- ==== Sys2Proof/WellFormed.lean ====
section
/-! DEFINITION. Which commands a command word can stand for (30_encoding.md R81, R84). The only field value that no
command word may carry is `LEN` in 65..127 on SALSA_XOR; "KLEN and NLEN have no reserved values" (R84). -/

namespace Sys2Proof

/-- R84: SALSA_XOR's window length is at most 64; every other command is well formed whatever its fields. -/
def Instr.wellFormed : Instr → Bool
  | .nop => true
  | .rmdInit => true
  | .rmdCompress => true
  | .salsaInit _ _ => true
  | .salsaSeek => true
  | .salsaXor len => decide (len.toNat ≤ 64)

/-- The check as a proposition that `decide` can run. -/
abbrev Instr.WellFormed (i : Instr) : Prop := i.wellFormed = true

end Sys2Proof
end

