-- ==== Sys2Proof/Decode.lean ====
section
/-! DEFINITION. The command decoder and encoder (30_encoding.md R80 to R86). A command word is the 32-bit data of a host
write to CMD, so it has no byte order of its own (R51); every command is one word (R85). The decoder is total and
rejects by name; every rejection is the command error BAD_COMMAND (R81, R84). -/

namespace Sys2Proof

/-! ### The fields of a command word (R80, R82) -/

/-- `OP = v[7:0]`. -/
def opField (v : Word) : BitVec 8 := v.extractLsb' 0 8

/-- `LEN = v[14:8]`, unsigned, not scaled. -/
def lenField (v : Word) : BitVec 7 := v.extractLsb' 8 7

/-- `KLEN = v[21:16]`, unsigned, not scaled. -/
def klenField (v : Word) : BitVec 6 := v.extractLsb' 16 6

/-- `NLEN = v[27:24]`, unsigned, not scaled. -/
def nlenField (v : Word) : BitVec 4 := v.extractLsb' 24 4

/-- The opcodes R83 gives a command. -/
def usedOpcodes : List (BitVec 8) := [0x00#8, 0x01#8, 0x02#8, 0x10#8, 0x11#8, 0x12#8]

/-! ### The rows of the opcode map, as data (R83) -/

/-- The mask of a command's row. -/
def rowMask : Instr → Word
  | .nop => 0xFFFFFFFF#32
  | .rmdInit => 0xFFFFFFFF#32
  | .rmdCompress => 0xFFFFFFFF#32
  | .salsaInit _ _ => 0xF0C0FFFF#32
  | .salsaSeek => 0xFFFFFFFF#32
  | .salsaXor _ => 0xFFFF80FF#32

/-- The match value of a command's row. -/
def rowMatch : Instr → Word
  | .nop => 0x00000000#32
  | .rmdInit => 0x00000001#32
  | .rmdCompress => 0x00000002#32
  | .salsaInit _ _ => 0x00000010#32
  | .salsaSeek => 0x00000011#32
  | .salsaXor _ => 0x00000012#32

/-! ### Decoding -/

/-- Why a word is no command (R84). Each reason is raised by `decode` and ends the command as BAD_COMMAND; this is safe,
since it is the effect the spec gives. -/
inductive DecodeReject where
  /-- OP is none of the six opcodes of R83. -/
  | unusedOpcode
  /-- OP is a command's, but a reserved bit, or a bit of a field that the command does not use, is set. -/
  | strayBits
  /-- SALSA_XOR with `LEN` in 65..127. -/
  | lenOutOfRange
  deriving DecidableEq, Repr

/-- The name of the rejection of a word that matches no row (R84's first three cases). -/
def noRowReason (v : Word) : DecodeReject :=
  if opField v ∈ usedOpcodes then .strayBits else .unusedOpcode

/-- R81, R83: the row whose mask and match the word meets, with the fields of R82; SALSA_XOR's `LEN > 64` is refused
after its row is found. -/
def decode (v : Word) : Except DecodeReject Instr :=
  if v &&& rowMask .nop = rowMatch .nop then .ok .nop
  else if v &&& rowMask .rmdInit = rowMatch .rmdInit then .ok .rmdInit
  else if v &&& rowMask .rmdCompress = rowMatch .rmdCompress then .ok .rmdCompress
  else if v &&& rowMask (.salsaInit (klenField v) (nlenField v)) = rowMatch (.salsaInit (klenField v) (nlenField v)) then
    .ok (.salsaInit (klenField v) (nlenField v))
  else if v &&& rowMask .salsaSeek = rowMatch .salsaSeek then .ok .salsaSeek
  else if v &&& rowMask (.salsaXor (lenField v)) = rowMatch (.salsaXor (lenField v)) then
    if 64 < (lenField v).toNat then .error .lenOutOfRange else .ok (.salsaXor (lenField v))
  else .error (noRowReason v)

/-- The instruction of an opcode-table word. A command word is one 32-bit unit: `nbits` is 32 for every row, and bits the
table does not give are 0. -/
def decodeTableWord (nbits w : Nat) : Option Instr :=
  match decode (BitVec.ofNat 32 (w % 2 ^ nbits)) with
  | .ok i => some i
  | .error _ => none

/-! ### Encoding -/

/-- The command word of a command (R80, R83, R86): the row's match value with the named fields in their places. It places
any `LEN`, as the assembler of R86 does; the block rejects 65..127. -/
def encode : Instr → Word
  | .nop => 0x00000000#32
  | .rmdInit => 0x00000001#32
  | .rmdCompress => 0x00000002#32
  | .salsaInit klen nlen => 0x00000010#32 ||| (klen.setWidth 32 <<< 16) ||| (nlen.setWidth 32 <<< 24)
  | .salsaSeek => 0x00000011#32
  | .salsaXor len => 0x00000012#32 ||| (len.setWidth 32 <<< 8)

end Sys2Proof
end

