-- ==== Sys2Proof/Machine/RmdTables.lean ====
section
/-! DEFINITION. The constant tables of the hash unit (41_ripemd128.md R114 to R117, R130), and the type of a chaining
state. The spec supplies the values from general knowledge and checks them against the source's vectors (93 G1 to G6);
they are fixed, not configurable (R33, D38). -/

namespace Sys2Proof.Machine

/-- The chaining registers `H0..H3` (10_state.md R20). -/
structure Chain where
  h0 : Word
  h1 : Word
  h2 : Word
  h3 : Word
  deriving DecidableEq, Repr

/-- R130: the initial chaining values. -/
def iv : Chain := ⟨0x67452301#32, 0xEFCDAB89#32, 0x98BADCFE#32, 0x10325476#32⟩

/-- R114: the left line's round constants. -/
def kl : Vector Word 4 := #v[0x00000000#32, 0x5A827999#32, 0x6ED9EBA1#32, 0x8F1BBCDC#32]

/-- R114: the right line's round constants. -/
def kr : Vector Word 4 := #v[0x50A28BE6#32, 0x5C4DD124#32, 0x6D703EF3#32, 0x00000000#32]

/-- R113: the round of a step, `q = j div 16`. -/
def roundOf (j : Fin 64) : Fin 4 := ⟨j.val / 16, by omega⟩

/-- The place of a step in its round. -/
def placeOf (j : Fin 64) : Fin 16 := ⟨j.val % 16, by omega⟩

/-- R115: the left line's message-word selection, a row per round. -/
def rlRows : Vector (Vector (Fin 16) 16) 4 :=
  #v[#v[0, 1, 2, 3, 4, 5, 6, 7, 8, 9, 10, 11, 12, 13, 14, 15],
     #v[7, 4, 13, 1, 10, 6, 15, 3, 12, 0, 9, 5, 2, 14, 11, 8],
     #v[3, 10, 14, 4, 9, 15, 8, 1, 2, 7, 0, 6, 13, 11, 5, 12],
     #v[1, 9, 11, 10, 0, 8, 12, 4, 13, 3, 7, 15, 14, 5, 6, 2]]

/-- R115: the right line's message-word selection. -/
def rrRows : Vector (Vector (Fin 16) 16) 4 :=
  #v[#v[5, 14, 7, 0, 9, 2, 11, 4, 13, 6, 15, 8, 1, 10, 3, 12],
     #v[6, 11, 3, 7, 0, 13, 5, 10, 14, 15, 8, 12, 4, 9, 1, 2],
     #v[15, 5, 1, 3, 7, 14, 6, 9, 11, 8, 12, 2, 10, 0, 4, 13],
     #v[8, 6, 4, 1, 3, 11, 15, 0, 5, 12, 2, 13, 9, 7, 10, 14]]

/-- R116: the left line's rotation amounts. -/
def slRows : Vector (Vector Nat 16) 4 :=
  #v[#v[11, 14, 15, 12, 5, 8, 7, 9, 11, 13, 14, 15, 6, 7, 9, 8],
     #v[7, 6, 8, 13, 11, 9, 7, 15, 7, 12, 15, 9, 11, 7, 13, 12],
     #v[11, 13, 6, 7, 14, 9, 13, 15, 14, 8, 13, 6, 5, 12, 7, 5],
     #v[11, 12, 14, 15, 14, 15, 9, 8, 9, 14, 5, 6, 8, 6, 5, 12]]

/-- R117: the right line's rotation amounts. -/
def srRows : Vector (Vector Nat 16) 4 :=
  #v[#v[8, 9, 9, 11, 13, 15, 15, 5, 7, 7, 8, 11, 14, 14, 12, 6],
     #v[9, 13, 15, 7, 12, 8, 9, 11, 7, 7, 12, 7, 6, 15, 13, 11],
     #v[9, 7, 15, 11, 8, 6, 6, 14, 12, 13, 5, 14, 13, 13, 7, 5],
     #v[15, 5, 8, 11, 14, 14, 6, 14, 6, 9, 12, 9, 12, 5, 15, 8]]

/-- `RL[j]` of R115. -/
def rl (j : Fin 64) : Fin 16 := rlRows[roundOf j][placeOf j]

/-- `RR[j]` of R115. -/
def rr (j : Fin 64) : Fin 16 := rrRows[roundOf j][placeOf j]

/-- `SL[j]` of R116. -/
def sl (j : Fin 64) : Nat := slRows[roundOf j][placeOf j]

/-- `SR[j]` of R117. -/
def sr (j : Fin 64) : Nat := srRows[roundOf j][placeOf j]

end Sys2Proof.Machine
end

