-- ==== Sys2Proof/Machine/State.lean ====
section
/-! DEFINITION. The state of the block: every entry of the R32 table of 10_state.md, and beside it the two fields of the
model's own that hold what the outside world does to the block (the accesses and resets still to come) and what it sees
(the responses given). Working values of a command are no state (R23, R28). The block owns no memory (20_memory.md), has no
program counter and no general registers (R22), no saved-exception registers (R201, R205), no interrupt bits (R206) and
no mode (R210). -/

namespace Sys2Proof.Machine

/-! ### What happens at the window: accesses, resets and responses -/

/-- One host bus access, named by its byte offset in the 512-byte window (R53: `0 <= off < 0x200`) and its width in bits
(R55). The data of a write is kept as a word; for a width other than 32 it plays no part (R55; log entry 9). -/
inductive BusAccess where
  | read (off : BitVec 9) (width : Nat)
  | write (off : BitVec 9) (width : Nat) (data : Word)
  deriving DecidableEq, Repr

/-- What the outside world can do to the block: one host bus access, or the platform's reset signal (R230). -/
inductive BusEvent where
  | access (a : BusAccess)
  | reset
  deriving DecidableEq, Repr

/-- What the block answers to one access (R55, R201): the value read, a write acknowledgement, or the error response. -/
inductive BusResponse where
  | value (w : Word)
  | ack
  | busError (off : BitVec 9)
  deriving DecidableEq, Repr

/-! ### The registers -/

/-- The cipher's staging registers (R24): the host fills them, no command writes them. -/
structure Staging where
  /-- `KEY[0..7]`. -/
  key : Vector Word 8
  /-- `NONCE[0..1]`. -/
  nonce : Vector Word 2
  /-- `CTRIN_LO`. -/
  ctrinLo : Word
  /-- `CTRIN_HI`. -/
  ctrinHi : Word
  /-- `ROUNDS`, read as `signed_32`. -/
  rounds : Word
  deriving DecidableEq, Repr

/-- The constructed cipher state (R25), less its counter: only a successful SALSA_INIT writes it, all at once. -/
structure Cipher where
  /-- `CK[0..7]`, the expanded key words. -/
  ck : Vector Word 8
  /-- `CN[0..1]`, the nonce words. -/
  cn : Vector Word 2
  /-- `CC[0..3]`, the constant set. -/
  cc : Vector Word 4
  /-- `CR`, the round count, a signed 32-bit value. -/
  cr : Word
  /-- `CVALID`: a SALSA_INIT has succeeded. -/
  cvalid : Bool
  /-- `CKEY32`: the cipher came from a 32-byte key. -/
  ckey32 : Bool
  deriving DecidableEq, Repr

/-- The machine's state: plain data. -/
structure State where
  /-- `STATUS.ERR` (R29, R30), the one piece of state both units share. -/
  err : BitVec 4
  /-- `H0..H3` (R20). -/
  chain : Chain
  /-- `MBLK[0..15]` (R21). -/
  mblk : Vector Word 16
  /-- `KEY`, `NONCE`, `CTRIN_LO`, `CTRIN_HI`, `ROUNDS` (R24). -/
  staging : Staging
  /-- `CK`, `CN`, `CC`, `CR`, `CVALID`, `CKEY32` (R25). -/
  cipher : Cipher
  /-- `CTR`, the 64-bit block counter (R26). -/
  ctr : Word64
  /-- `DIN[0..15]` (R27). -/
  din : Vector Word 16
  /-- `DOUT[0..15]` (R27). -/
  dout : Vector Word 16
  /-- The model's own: what the bus and the platform deliver from here on, first one first (log entry 2). -/
  pending : List BusEvent
  /-- The model's own: the responses given so far, oldest first (log entry 2). -/
  responses : List BusResponse
  deriving DecidableEq, Repr

/-- Why an access to a host bus address stops. `step` never faults. -/
inductive Fault where
  /-- Raised by `hostAccess` for a host bus address outside the window `BASE .. BASE + 0x1FF`: the block has no such
  address (R53) and the spec says nothing of what answers there. Safe. -/
  | outsideWindow (addr : Nat)
  deriving DecidableEq, Repr

/-- Why the model gives no meaning (R216). `step` and `exec` never refuse. -/
inductive Refusal where
  /-- Raised by an arm of `exec` whose command has no meaning yet: no arm is left that raises it. Safe. -/
  | notModelled (mnemonic : String)
  /-- Raised by `hostCall` for the source's "fast decrypt", for which the block has no command (R6, R216, 93 U2, U3). Safe. -/
  | fastDecrypt
  /-- Raised by `hostCall` for a CONSTRUCT whose round count lies outside the signed 32-bit range (R6, R216, 93 U10).
  Safe. -/
  | roundsOutOfRange (rounds : Int)
  deriving DecidableEq, Repr

/-! ### Reset -/

/-- The staging registers after reset (R32): the source's defaults `counter = 0, rounds = 20`, key and nonce 0. -/
def Staging.reset : Staging where
  key := Vector.replicate 8 0#32
  nonce := Vector.replicate 2 0#32
  ctrinLo := 0#32
  ctrinHi := 0#32
  rounds := 20#32

/-- The constructed cipher state after reset (R32): no cipher. -/
def Cipher.reset : Cipher where
  ck := Vector.replicate 8 0#32
  cn := Vector.replicate 2 0#32
  cc := Vector.replicate 4 0#32
  cr := 0#32
  cvalid := false
  ckey32 := false

/-- The block right after reset: every register at its value of the R32 table (R230), nothing delivered yet. -/
def State.reset : State where
  err := 0#4
  chain := iv
  mblk := Vector.replicate 16 0#32
  staging := Staging.reset
  cipher := Cipher.reset
  ctr := 0#64
  din := Vector.replicate 16 0#32
  dout := Vector.replicate 16 0#32
  pending := []
  responses := []

end Sys2Proof.Machine
end

