-- ==== Sys2Proof/Machine/Flags.lean ====
section
/-! DEFINITION. The result codes and the STATUS register (60_exceptions.md R200, 10_state.md R29, R30). STATUS holds the
block's only flags: the code of the last command, CVALID and CKEY32. -/

namespace Sys2Proof.Machine

/-- The result codes of R200. Codes 6 to 15 are reserved and never produced. -/
inductive ErrCode where
  | ok
  | invalidKeySize
  | invalidNonceSize
  | invalidRounds
  | noCipher
  | badCommand
  deriving DecidableEq, Repr

/-- A result code as STATUS.ERR holds it (R200). -/
def ErrCode.bits : ErrCode → BitVec 4
  | .ok => 0#4
  | .invalidKeySize => 1#4
  | .invalidNonceSize => 2#4
  | .invalidRounds => 3#4
  | .noCipher => 4#4
  | .badCommand => 5#4

/-- STATUS bit 9: the mirror of CKEY32, "0 whenever CVALID = 0" (R29). -/
def statusKey32 (s : State) : Bool := s.cipher.cvalid && s.cipher.ckey32

/-- The value a read of STATUS returns (R29): ERR in bits 7:4, CVALID in bit 8, CKEY32 in bit 9, every other bit 0. -/
def statusWord (s : State) : Word :=
  (s.err.setWidth 32 <<< 4) ||| ((BitVec.ofBool s.cipher.cvalid).setWidth 32 <<< 8) |||
    ((BitVec.ofBool (statusKey32 s)).setWidth 32 <<< 9)

/-- The ERR field of a STATUS value (R29: bits 7:4). -/
def statusErr (w : Word) : BitVec 4 := w.extractLsb' 4 4

end Sys2Proof.Machine
end

