-- ==== Sys2Proof/Machine/Operands.lean ====
section
/-! DEFINITION. The operand forms of the commands: the registers a command reads when it executes (30_encoding.md R82) in
the shape its rule uses them. The fields of the command word itself are read in `Decode.lean`. -/

namespace Sys2Proof.Machine

/-- `{CTRIN_HI, CTRIN_LO}`, the staged 64-bit counter value (R24). -/
def ctrin (s : State) : Word64 := s.staging.ctrinHi ++ s.staging.ctrinLo

/-- `signed_32(ROUNDS)` (R24, R170). -/
def signedRounds (s : State) : Int := s.staging.rounds.toInt

/-- `CTR_LO = CTR[31:0]` (R26). -/
def ctrLo (s : State) : Word := s.ctr.extractLsb' 0 32

/-- `CTR_HI = CTR[63:32]` (R26). -/
def ctrHi (s : State) : Word := s.ctr.extractLsb' 32 32

/-- A key length the cipher has: `KLEN ∈ {16, 32}` bytes (R170). -/
def keyLenOk (klen : BitVec 6) : Bool := klen == 16#6 || klen == 32#6

/-- The nonce length the cipher has: `NLEN = 8` bytes (R170). -/
def nonceLenOk (nlen : BitVec 4) : Bool := nlen == 8#4

/-- A round count the cipher has: positive and even (R170). -/
def roundsOk (r : Int) : Bool := decide (0 < r) && decide (r % 2 = 0)

/-- R151: the expanded key words, the eight staged words of a 32-byte key, or the first four of them twice. -/
def expandKey (key32 : Bool) (key : Vector Word 8) : Vector Word 8 :=
  if key32 then key else Vector.ofFn fun i => key[i.val % 4]

end Sys2Proof.Machine
end

