-- ==== Sys2Proof/Machine/Ops.lean ====
section
/-! DEFINITION. The named updates of State, and the operations the commands share: completing, and ending in a command
error. The block has no trap: a command error is its only exception entry (60_exceptions.md R202), it saves nothing,
changes no mode, goes to no handler, and has no return (R205). -/

namespace Sys2Proof.Machine

/-- An outcome of the block. -/
abbrev Result (α : Type) := Host.Outcome α Fault Refusal

/-- Go on with the next value, or stop as the outcome stops. -/
def andThen {α β : Type} (o : Result α) (f : α → Result β) : Result β :=
  match o with
  | .next a => f a
  | .fault r => .fault r
  | .refused r => .refused r

/-! ### Updates of one field -/

/-- Write the chaining registers. -/
def State.withChain (s : State) (c : Chain) : State := { s with chain := c }

/-- Write the message block buffer. -/
def State.withMblk (s : State) (m : Vector Word 16) : State := { s with mblk := m }

/-- Write the staging registers. -/
def State.withStaging (s : State) (g : Staging) : State := { s with staging := g }

/-- Write the input buffer. -/
def State.withDin (s : State) (d : Vector Word 16) : State := { s with din := d }

/-- Write STATUS.ERR. -/
def State.withErr (s : State) (e : ErrCode) : State := { s with err := e.bits }

/-- Replace what is still to be delivered. -/
def State.withPending (s : State) (p : List BusEvent) : State := { s with pending := p }

/-- Record the response to an access. -/
def State.respond (s : State) (r : BusResponse) : State := { s with responses := s.responses ++ [r] }

/-! ### How a command ends -/

/-- A command that completes and changes nothing else writes ERR <- 0 (R30, R200). -/
def complete (s : State) : Result State := .next (s.withErr .ok)

/-- `raise CmdError(code)` (R11, R202): ERR takes the code, no other state is written, and the CMD write completes
normally. -/
def cmdError (code : ErrCode) (s : State) : Result State := .next (s.withErr code)

/-- The platform's reset signal (R230): every piece of the block's state takes its reset value; what is still to be
delivered and what has been answered are outside the block and stay (log entry 3). -/
def resetBlock (s : State) : State :=
  { State.reset with pending := s.pending, responses := s.responses }

end Sys2Proof.Machine
end

