-- ==== Sys2Proof/Machine/Control.lean ====
section
/-! DEFINITION. The control command (40_control.md). -/

namespace Sys2Proof.Machine

/-- NOP (R100): ERR <- 0, nothing else. -/
def execNop (s : State) : Result State := complete s

end Sys2Proof.Machine
end

