-- ==== Sys2Proof/Machine/Bits.lean ====
section
/-! DEFINITION. The bit and byte helpers of 00_scope.md R8 to R10 and the byte view of a register array (20_memory.md
R50): rotation, the byte lanes of a word, little-endian packing. -/

namespace Sys2Proof.Machine

/-- R9: left rotation of a 32-bit word by `1 <= n <= 31`. -/
def rol32 (a : Word) (n : Nat) : Word := (a <<< n) ||| (a >>> (32 - n))

/-- R50: byte lane `k` of a word, its bits `[8k+7 : 8k]`. -/
def byteOf (w : Word) (k : Nat) : Byte := w.extractLsb' (8 * k) 8

/-- R10: a word from four bytes, the first byte least significant. -/
def le32 (b0 b1 b2 b3 : Byte) : Word :=
  b0.setWidth 32 ||| (b1.setWidth 32 <<< 8) ||| (b2.setWidth 32 <<< 16) ||| (b3.setWidth 32 <<< 24)

/-- R10: the four bytes of a word, least significant first. -/
def bytesLe32 (w : Word) : List Byte := [byteOf w 0, byteOf w 1, byteOf w 2, byteOf w 3]

/-- R10: the eight bytes of a 64-bit value, least significant first. -/
def bytesLe64 (v : Word64) : List Byte :=
  bytesLe32 (v.extractLsb' 0 32) ++ bytesLe32 (v.extractLsb' 32 32)

/-- R50: byte number `i` of the byte array that a register array stands for, lane `i mod 4` of word `i div 4`. This is
the `MB`, `KB`, `NB`, `DB` and `OB` view of R21, R24 and R27. -/
def byteView {n : Nat} (x : Vector Word n) (i : Fin (4 * n)) : Byte :=
  byteOf (x[i.val / 4]'(by omega)) (i.val % 4)

/-- The register array whose byte view is `b` (R50: word `i` is `le32(b[4i], b[4i+1], b[4i+2], b[4i+3])`). -/
def packBytes {n : Nat} (b : Fin (4 * n) → Byte) : Vector Word n :=
  Vector.ofFn fun i =>
    le32 (b ⟨4 * i.val, by omega⟩) (b ⟨4 * i.val + 1, by omega⟩) (b ⟨4 * i.val + 2, by omega⟩)
      (b ⟨4 * i.val + 3, by omega⟩)

end Sys2Proof.Machine
end

