-- ==== Sys2Proof/Machine/Ripemd128.lean ====
section
/-! DEFINITION. The hash unit (41_ripemd128.md): the boolean functions, the two lines, their merge, the compression
function, and the commands RMD_INIT and RMD_COMPRESS. The lines' registers are local to a compression (R23). -/

namespace Sys2Proof.Machine

/-! ### The boolean functions (R111) -/

/-- `F(x, y, z) = x ^ y ^ z`. -/
def fnF (x y z : Word) : Word := x ^^^ y ^^^ z

/-- `G(x, y, z) = (x & y) | (~x & z)`. -/
def fnG (x y z : Word) : Word := (x &&& y) ||| (~~~x &&& z)

/-- `H(x, y, z) = (x | ~y) ^ z`. -/
def fnH (x y z : Word) : Word := (x ||| ~~~y) ^^^ z

/-- `I(x, y, z) = (x & z) | (y & ~z)`. -/
def fnI (x y z : Word) : Word := (x &&& z) ||| (y &&& ~~~z)

/-- R112: the left line's schedule, `FL[q] = (F, G, H, I)[q]`. -/
def leftFn (q : Fin 4) : Word → Word → Word → Word :=
  match q with
  | 0 => fnF
  | 1 => fnG
  | 2 => fnH
  | 3 => fnI

/-- R112: the right line's schedule is the left one mirrored, `FR[q] = FL[3 - q]`. -/
def rightFn (q : Fin 4) : Word → Word → Word → Word := leftFn ⟨3 - q.val, by omega⟩

/-! ### Steps and lines -/

/-- The registers of one line (R23). -/
structure Line where
  a : Word
  b : Word
  c : Word
  d : Word
  deriving DecidableEq, Repr

/-- R121: a line starts from the current chaining state. -/
def Line.start (h : Chain) : Line := ⟨h.h0, h.h1, h.h2, h.h3⟩

/-- The step both lines take (R119, R120): the new value goes to B, the old D to A, B to C, C to D (90 C1). -/
def lineStep (fn : Word → Word → Word → Word) (x k : Word) (rot : Nat) (l : Line) : Line :=
  ⟨l.d, rol32 (l.a + fn l.b l.c l.d + x + k) rot, l.b, l.c⟩

/-- R119: left-line step `j`. -/
def leftStep (X : Vector Word 16) (j : Fin 64) (l : Line) : Line :=
  lineStep (leftFn (roundOf j)) X[rl j] kl[roundOf j] (sl j) l

/-- R120: right-line step `j`. -/
def rightStep (X : Vector Word 16) (j : Fin 64) (l : Line) : Line :=
  lineStep (rightFn (roundOf j)) X[rr j] kr[roundOf j] (sr j) l

/-- R124's loop: step `j` of the left line, then step `j` of the right line, for j in 0..63. -/
def runLines (X : Vector Word 16) (p : Line × Line) : Line × Line :=
  (List.finRange 64).foldl (fun p j => (leftStep X j p.1, rightStep X j p.2)) p

/-- R123: the merge of both lines into the chaining state they started from. -/
def mergeLines (h : Chain) (left right : Line) : Chain :=
  ⟨h.h1 + left.c + right.d, h.h2 + left.d + right.a, h.h3 + left.a + right.b, h.h0 + left.b + right.c⟩

/-- R124: the compression function. -/
def compress (h : Chain) (X : Vector Word 16) : Chain :=
  let p := runLines X (Line.start h, Line.start h)
  mergeLines h p.1 p.2

/-! ### The commands -/

/-- RMD_INIT (R131): the chaining registers take the initial values. -/
def execRmdInit (s : State) : Result State := .next { s with chain := iv, err := ErrCode.ok.bits }

/-- RMD_COMPRESS (R132): the chaining registers take the compression of the message block buffer. -/
def execRmdCompress (s : State) : Result State :=
  .next { s with chain := compress s.chain s.mblk, err := ErrCode.ok.bits }

end Sys2Proof.Machine
end

