-- ==== Sys2Proof/Machine/SalsaTables.lean ====
section
/-! DEFINITION. The constant tables of the cipher unit (42_salsa20.md R150, R156, R157). The spec supplies them from general
knowledge (93 G9, G10); the TAU set is confirmed by no source vector (91 N7; log entry 11). -/

namespace Sys2Proof.Machine

/-- R150: the constant set of 32-byte keys. -/
def sigma : Vector Word 4 := #v[0x61707865#32, 0x3320646E#32, 0x79622D32#32, 0x6B206574#32]

/-- R150: the constant set of 16-byte keys. -/
def tau : Vector Word 4 := #v[0x61707865#32, 0x3120646E#32, 0x79622D36#32, 0x6B206574#32]

/-- The four indices of one quarter-round (R155). -/
structure Quad where
  y0 : Fin 16
  y1 : Fin 16
  y2 : Fin 16
  y3 : Fin 16
  deriving DecidableEq, Repr

/-- R156: the quarter-rounds of a column round, in order. -/
def columnQuads : List Quad := [⟨0, 4, 8, 12⟩, ⟨5, 9, 13, 1⟩, ⟨10, 14, 2, 6⟩, ⟨15, 3, 7, 11⟩]

/-- R157: the quarter-rounds of a row round, in order. -/
def rowQuads : List Quad := [⟨0, 1, 2, 3⟩, ⟨5, 6, 7, 4⟩, ⟨10, 11, 8, 9⟩, ⟨15, 12, 13, 14⟩]

end Sys2Proof.Machine
end

