-- ==== Sys2Proof/Machine/Salsa20.lean ====
section
/-! DEFINITION. The cipher unit (42_salsa20.md): the input state, the ARX update, quarter-rounds, rounds, the block
function, the XOR datapath, and the commands SALSA_INIT, SALSA_SEEK and SALSA_XOR. The working array and the keystream
block are local to a command (R28). -/

namespace Sys2Proof.Machine

/-- The working array of sixteen words (R153). -/
abbrev Block := Vector Word 16

/-- R153: the input state for counter value `c`. -/
def inputState (k : Cipher) (c : Word64) : Block :=
  #v[k.cc[0], k.ck[0], k.ck[1], k.ck[2],
     k.ck[3], k.cc[1], k.cn[0], k.cn[1],
     c.extractLsb' 0 32, c.extractLsb' 32 32, k.cc[2], k.ck[4],
     k.ck[5], k.ck[6], k.ck[7], k.cc[3]]

/-- R154: the ARX update `(t, a, b, s)`, `x[t] <- x[t] ^ rol32(x[a] + x[b], s)`. -/
def arx (t a b : Fin 16) (s : Nat) (x : Block) : Block :=
  x.set t (x[t] ^^^ rol32 (x[a] + x[b]) s)

/-- R155: a quarter-round is four ARX updates, each reading the result of the one before it. -/
def quarterRound (q : Quad) (x : Block) : Block :=
  arx q.y0 q.y3 q.y2 18 (arx q.y3 q.y2 q.y1 13 (arx q.y2 q.y1 q.y0 9 (arx q.y1 q.y0 q.y3 7 x)))

/-- Quarter-rounds in the order listed. -/
def quarterRounds (qs : List Quad) (x : Block) : Block := qs.foldl (fun x q => quarterRound q x) x

/-- R156: the column round. -/
def columnRound (x : Block) : Block := quarterRounds columnQuads x

/-- R157: the row round. -/
def rowRound (x : Block) : Block := quarterRounds rowQuads x

/-- R158: a double-round is the column round followed by the row round. -/
def doubleRound (x : Block) : Block := rowRound (columnRound x)

/-- `n` double-rounds. -/
def doubleRounds : Nat → Block → Block
  | 0, x => x
  | n + 1, x => doubleRounds n (doubleRound x)

/-- `CR / 2`, the number of double-rounds (R159). `CR` is signed, positive and even whenever a cipher exists (R25); a
state no run reaches may hold another value, and one that is not positive gives no double-round (log entry 12). -/
def doubleRoundCount (k : Cipher) : Nat := (k.cr.toInt / 2).toNat

/-- R159: the keystream block for counter value `c`, as sixteen words; its bytes are the byte view of R50. -/
def keystreamWords (k : Cipher) (c : Word64) : Block :=
  let input := inputState k c
  let x := doubleRounds (doubleRoundCount k) input
  Vector.ofFn fun i => x[i] + input[i]

/-- R160: one byte lane of the XOR datapath; a lane at or past the window length gives 0. -/
def xorLane (len i : Nat) (db ks : Byte) : Byte := if i < len then db ^^^ ks else 0x00#8

/-- R160: the 64 lanes, as the words of DOUT. -/
def xorWindow (len : Nat) (din ks : Vector Word 16) : Vector Word 16 :=
  packBytes fun i => xorLane len i.val (byteView din i) (byteView ks i)

/-- The cipher a successful SALSA_INIT constructs from the staging registers (R170, R151, R152). -/
def constructed (key32 : Bool) (g : Staging) : Cipher where
  ck := expandKey key32 g.key
  cn := g.nonce
  cc := if key32 then sigma else tau
  cr := g.rounds
  cvalid := true
  ckey32 := key32

/-! ### The commands -/

/-- SALSA_INIT (R170): the three checks in R203's order, then the whole cipher and its counter at once. -/
def execSalsaInit (klen : BitVec 6) (nlen : BitVec 4) (s : State) : Result State :=
  if !keyLenOk klen then cmdError .invalidKeySize s
  else if !nonceLenOk nlen then cmdError .invalidNonceSize s
  else if !roundsOk (signedRounds s) then cmdError .invalidRounds s
  else
    .next { s with
      cipher := constructed (klen == 32#6) s.staging
      ctr := ctrin s
      err := ErrCode.ok.bits }

/-- SALSA_SEEK (R171): the counter takes the staged value, if there is a cipher. -/
def execSalsaSeek (s : State) : Result State :=
  if !s.cipher.cvalid then cmdError .noCipher s else .next { s with ctr := ctrin s, err := ErrCode.ok.bits }

/-- SALSA_XOR (R172). The check `LEN > 64` is the decode's (R81) and comes first (R203); it stands here too, so that the
meaning is the spec's for a term that no command word decodes to (log entry 6). -/
def execSalsaXor (len : BitVec 7) (s : State) : Result State :=
  if 64 < len.toNat then cmdError .badCommand s
  else if !s.cipher.cvalid then cmdError .noCipher s
  else if len.toNat = 0 then complete s
  else
    .next { s with
      dout := xorWindow len.toNat s.din (keystreamWords s.cipher s.ctr)
      ctr := s.ctr + 1#64
      err := ErrCode.ok.bits }

end Sys2Proof.Machine
end

