-- ==== Sys2Proof/Machine/Dispatch.lean ====
section
/-! DEFINITION. The dispatch: one arm per command (30_encoding.md R81, `perform row.rule`). -/

namespace Sys2Proof.Machine

def exec (i : Instr) (s : State) : Host.Outcome State Fault Refusal :=
  match i with
  | .nop => Sys2Proof.Machine.execNop s
  | .rmdInit => Sys2Proof.Machine.execRmdInit s
  | .rmdCompress => Sys2Proof.Machine.execRmdCompress s
  | .salsaInit klen nlen => Sys2Proof.Machine.execSalsaInit klen nlen s
  | .salsaSeek => Sys2Proof.Machine.execSalsaSeek s
  | .salsaXor len => Sys2Proof.Machine.execSalsaXor len s

end Sys2Proof.Machine
end

