-- ==== Sys2Proof/Machine/Window.lean ====
section
/-! DEFINITION. The register window (20_memory.md R53 to R56): which register stands at which byte offset, who may read or
write it, and what a read returns and a write stores. The block owns no memory; the window is its only address space. -/

namespace Sys2Proof.Machine

/-- The registers of the window (R54), an array element by its index. -/
inductive Reg where
  | cmd
  | status
  | h (i : Fin 4)
  | mblk (i : Fin 16)
  | key (i : Fin 8)
  | nonce (i : Fin 2)
  | ctrinLo
  | ctrinHi
  | rounds
  | ctrLo
  | ctrHi
  | din (i : Fin 16)
  | dout (i : Fin 16)
  deriving DecidableEq, Repr

/-- R54: a register's byte offset. -/
def Reg.offset : Reg → BitVec 9
  | .cmd => 0x000#9
  | .status => 0x004#9
  | .h i => BitVec.ofNat 9 (0x010 + 4 * i.val)
  | .mblk i => BitVec.ofNat 9 (0x040 + 4 * i.val)
  | .key i => BitVec.ofNat 9 (0x080 + 4 * i.val)
  | .nonce i => BitVec.ofNat 9 (0x0A0 + 4 * i.val)
  | .ctrinLo => 0x0A8#9
  | .ctrinHi => 0x0AC#9
  | .rounds => 0x0B0#9
  | .ctrLo => 0x0C0#9
  | .ctrHi => 0x0C4#9
  | .din i => BitVec.ofNat 9 (0x100 + 4 * i.val)
  | .dout i => BitVec.ofNat 9 (0x140 + 4 * i.val)

/-- R54's access column: the host may read the register. -/
def Reg.readable : Reg → Bool
  | .cmd => false
  | .status | .h _ | .mblk _ | .key _ | .nonce _ | .ctrinLo | .ctrinHi | .rounds | .ctrLo | .ctrHi | .din _ | .dout _ => true

/-- R54's access column: the host may write the register. -/
def Reg.writable : Reg → Bool
  | .cmd | .h _ | .mblk _ | .key _ | .nonce _ | .ctrinLo | .ctrinHi | .rounds | .din _ => true
  | .status | .ctrLo | .ctrHi | .dout _ => false

/-- R54: the register at a byte offset, if the offset is mapped. The word index is the offset's, so the answer for an
offset inside a register is that register; alignment is R55's own condition. -/
def regAt (off : BitVec 9) : Option Reg :=
  let w := off.toNat / 4
  if w = 0x000 / 4 then some .cmd
  else if w = 0x004 / 4 then some .status
  else if 0x010 / 4 ≤ w ∧ w ≤ 0x01C / 4 then some (.h (Fin.ofNat 4 (w - 0x010 / 4)))
  else if 0x040 / 4 ≤ w ∧ w ≤ 0x07C / 4 then some (.mblk (Fin.ofNat 16 (w - 0x040 / 4)))
  else if 0x080 / 4 ≤ w ∧ w ≤ 0x09C / 4 then some (.key (Fin.ofNat 8 (w - 0x080 / 4)))
  else if 0x0A0 / 4 ≤ w ∧ w ≤ 0x0A4 / 4 then some (.nonce (Fin.ofNat 2 (w - 0x0A0 / 4)))
  else if w = 0x0A8 / 4 then some .ctrinLo
  else if w = 0x0AC / 4 then some .ctrinHi
  else if w = 0x0B0 / 4 then some .rounds
  else if w = 0x0C0 / 4 then some .ctrLo
  else if w = 0x0C4 / 4 then some .ctrHi
  else if 0x100 / 4 ≤ w ∧ w ≤ 0x13C / 4 then some (.din (Fin.ofNat 16 (w - 0x100 / 4)))
  else if 0x140 / 4 ≤ w ∧ w ≤ 0x17C / 4 then some (.dout (Fin.ofNat 16 (w - 0x140 / 4)))
  else none

/-- The first two conditions of R55: the access is 32 bits wide and aligned. -/
def aligned32 (off : BitVec 9) (width : Nat) : Bool := width == 32 && off.toNat % 4 == 0

/-- R55: the register a read may read, if the read is permitted. -/
def readTarget (off : BitVec 9) (width : Nat) : Option Reg :=
  if aligned32 off width then (regAt off).filter Reg.readable else none

/-- R55: the register a write may write, if the write is permitted. -/
def writeTarget (off : BitVec 9) (width : Nat) : Option Reg :=
  if aligned32 off width then (regAt off).filter Reg.writable else none

/-- R55: whether an access is permitted. -/
def permitted : BusAccess → Bool
  | .read off width => (readTarget off width).isSome
  | .write off width _ => (writeTarget off width).isSome

/-- `H0..H3` by index (R20). -/
def Chain.get (c : Chain) : Fin 4 → Word
  | 0 => c.h0
  | 1 => c.h1
  | 2 => c.h2
  | 3 => c.h3

/-- Write one of `H0..H3` (R20: "a host bus write writes the one register addressed"). -/
def Chain.set (c : Chain) (i : Fin 4) (v : Word) : Chain :=
  match i with
  | 0 => { c with h0 := v }
  | 1 => { c with h1 := v }
  | 2 => { c with h2 := v }
  | 3 => { c with h3 := v }

/-- R54: a readable register's current value; none for CMD, which holds nothing and may not be read. -/
def loadReg (s : State) : Reg → Option Word
  | .cmd => none
  | .status => some (statusWord s)
  | .h i => some (s.chain.get i)
  | .mblk i => some s.mblk[i]
  | .key i => some s.staging.key[i]
  | .nonce i => some s.staging.nonce[i]
  | .ctrinLo => some s.staging.ctrinLo
  | .ctrinHi => some s.staging.ctrinHi
  | .rounds => some s.staging.rounds
  | .ctrLo => some (ctrLo s)
  | .ctrHi => some (ctrHi s)
  | .din i => some s.din[i]
  | .dout i => some s.dout[i]

/-- R55, R56: storing a value in a writable storage register, with no other effect; none for the read-only registers and
for CMD, which is no storage register (R54). -/
def storeReg (s : State) (v : Word) : Reg → Option State
  | .cmd => none
  | .status => none
  | .h i => some (s.withChain (s.chain.set i v))
  | .mblk i => some (s.withMblk (s.mblk.set i v))
  | .key i => some (s.withStaging { s.staging with key := s.staging.key.set i v })
  | .nonce i => some (s.withStaging { s.staging with nonce := s.staging.nonce.set i v })
  | .ctrinLo => some (s.withStaging { s.staging with ctrinLo := v })
  | .ctrinHi => some (s.withStaging { s.staging with ctrinHi := v })
  | .rounds => some (s.withStaging { s.staging with rounds := v })
  | .ctrLo => none
  | .ctrHi => none
  | .din i => some (s.withDin (s.din.set i v))
  | .dout _ => none

end Sys2Proof.Machine
end

