-- ==== Sys2Proof/Machine/Bus.lean ====
section
/-! DEFINITION. What the block does with one host bus access (20_memory.md R55, 30_encoding.md R81, 60_exceptions.md R201,
R216), with the platform's reset signal (70_reset_and_hazards.md R230), and with an access at a host bus address (R53).
Accesses are performed one at a time, in the order delivered, each before the next begins (R61); a command is one atomic
step within its CMD write (R240). -/

namespace Sys2Proof.Machine

/-- R81: executing a command word. -/
def execute (v : Word) (s : State) : Result State :=
  match decode v with
  | .ok i => exec i s
  | .error _ => cmdError .badCommand s

/-- The error response (R201): nothing is read, nothing is written, the block goes on (R205; log entry 1). -/
def busErrorOn (off : BitVec 9) (s : State) : Result (BusResponse × State) := .next (.busError off, s)

/-- R55's read: the register's value, with no side effect (R56). -/
def busRead (off : BitVec 9) (width : Nat) (s : State) : Result (BusResponse × State) :=
  match readTarget off width with
  | none => busErrorOn off s
  | some r =>
    match loadReg s r with
    | some v => .next (.value v, s)
    | none => busErrorOn off s

/-- R55's write: a write of CMD executes the command word, any other permitted write stores its value. -/
def busWrite (off : BitVec 9) (width : Nat) (v : Word) (s : State) : Result (BusResponse × State) :=
  match writeTarget off width with
  | none => busErrorOn off s
  | some .cmd => andThen (execute v s) fun t => .next (.ack, t)
  | some r =>
    match storeReg s v r with
    | some t => .next (.ack, t)
    | none => busErrorOn off s

/-- R55: one access. -/
def busAccess (a : BusAccess) (s : State) : Result (BusResponse × State) :=
  match a with
  | .read off width => busRead off width s
  | .write off width v => busWrite off width v s

/-- One access, its response recorded on the bus side. -/
def serveAccess (a : BusAccess) (s : State) : Result State :=
  andThen (busAccess a s) fun p => .next (p.2.respond p.1)

/-- What one delivered event does. -/
def serveEvent (e : BusEvent) (s : State) : Result State :=
  match e with
  | .access a => serveAccess a s
  | .reset => .next (resetBlock s)

/-- What the block does next: the first event delivered, or nothing while nothing is delivered (R22, R231). -/
def serveNext (s : State) : Result State :=
  match s.pending with
  | [] => .next s
  | e :: rest => serveEvent e (s.withPending rest)

/-- The event by which a host starts the command of a command word: a 32-bit write of CMD (R22, R80). -/
def commandWrite (v : Word) : BusEvent := .access (.write 0x000#9 32 v)

/-! ### Host bus addresses -/

/-- R53: the window offset of a host bus address, none outside `BASE + 0x000 .. BASE + 0x1FF`. -/
def windowOffset (c : Config) (addr : Nat) : Option (BitVec 9) :=
  if c.base ≤ addr ∧ addr < c.base + Config.windowSize then some (BitVec.ofNat 9 (addr - c.base)) else none

/-- A host bus access at a host bus address; `mk` is the access at an offset. An address outside the window is no
address of the block (log entry 4). -/
def hostAccess (c : Config) (addr : Nat) (mk : BitVec 9 → BusAccess) (s : State) : Result (BusResponse × State) :=
  match windowOffset c addr with
  | some off => busAccess (mk off) s
  | none => .fault (.outsideWindow addr)

end Sys2Proof.Machine
end

