-- ==== Sys2Proof/Machine/Step.lean ====
section
/-! DEFINITION. One step of the machine: the first delivered event is served (20_memory.md R61, 70_reset_and_hazards.md
R240). The block fetches nothing (R22, R51): a command runs because a host writes its word to CMD. -/

namespace Sys2Proof.Machine

/-- One step. -/
def step (s : State) : Host.Outcome State Fault Refusal := serveNext s

/-- The state in which the very next event delivered is a host's 32-bit write of this command word to CMD, so that the
next step runs it (log entry 2). The bits above `nbits` are 0. -/
def State.withFetchWord (s : State) (nbits w : Nat) : State :=
  s.withPending (commandWrite (BitVec.ofNat 32 (w % 2 ^ nbits)) :: s.pending)

end Sys2Proof.Machine
end

