-- ==== Sys2Proof/Machine/HostProc.lean ====
section
/-! DEFINITION. The host procedures of the spec, which are in scope (00_scope.md R5): host programs as lists of accesses
(30_encoding.md R86, R87), HASH (41_ripemd128.md R133 to R137), CONSTRUCT, PROCESS and SEEK (42_salsa20.md R175 to
R177), and what a model refuses by name at this level (60_exceptions.md R216). A procedure's accesses follow one
another with no other host's between them (20_memory.md R62; log entry 8). -/

namespace Sys2Proof.Machine

/-! ### Host programs (R86) -/

/-- `WR <reg>, <value32>`. -/
def wr (r : Reg) (v : Word) : BusAccess := .write r.offset 32 v

/-- `RD <reg>`. -/
def rd (r : Reg) : BusAccess := .read r.offset 32

/-- `CMD <mnemonic> [field=value, ...]`. -/
def cmd (i : Instr) : BusAccess := wr .cmd (encode i)

/-- `CMD SALSA_INIT klen=K, nlen=N`; the assembler refuses a value that does not fit its field (R86). -/
def asmSalsaInit (klen nlen : Nat) : Option BusAccess :=
  if klen ≤ 63 ∧ nlen ≤ 15 then some (cmd (.salsaInit (BitVec.ofNat 6 klen) (BitVec.ofNat 4 nlen))) else none

/-- `CMD SALSA_XOR len=L`; the assembler refuses `L > 127` and emits 65..127, which the block rejects (R86). -/
def asmSalsaXor (len : Nat) : Option BusAccess :=
  if len ≤ 127 then some (cmd (.salsaXor (BitVec.ofNat 7 len))) else none

/-- Run a host program: each access in order, the responses in order (R61). -/
def runProgram : List BusAccess → State → Result (List BusResponse × State)
  | [], s => .next ([], s)
  | a :: p, s => andThen (busAccess a s) fun x => andThen (runProgram p x.2) fun y => .next (x.1 :: y.1, y.2)

/-- The value a response returns, if it returns one. -/
def BusResponse.value? : BusResponse → Option Word
  | .value w => some w
  | .ack => none
  | .busError _ => none

/-- The values a program has read, in order. -/
def valuesOf (rs : List BusResponse) : List Word := rs.filterMap BusResponse.value?

/-- The bytes of words, in order (R10, R50). -/
def bytesOf (ws : List Word) : List Byte := ws.flatMap bytesLe32

/-! ### Pseudo-instructions (R87) -/

/-- `le32(b[4i], b[4i+1], b[4i+2], b[4i+3])`, where a byte past the end of `b` is the zero padding of LOADDIN
(log entry 10). -/
def wordAt (b : List Byte) (i : Nat) : Word :=
  le32 (b.getD (4 * i) 0x00#8) (b.getD (4 * i + 1) 0x00#8) (b.getD (4 * i + 2) 0x00#8) (b.getD (4 * i + 3) 0x00#8)

/-- `LOADBLK`, for 64 bytes. -/
def loadBlk (b : List Byte) : List BusAccess := (List.finRange 16).map fun i => wr (.mblk i) (wordAt b i)

/-- `LOADKEY`, for 16 or 32 bytes. -/
def loadKey (b : List Byte) : List BusAccess :=
  ((List.finRange 8).take (b.length / 4)).map fun i => wr (.key i) (wordAt b i)

/-- `LOADNONCE`, for 8 bytes. -/
def loadNonce (b : List Byte) : List BusAccess := [wr (.nonce 0) (wordAt b 0), wr (.nonce 1) (wordAt b 1)]

/-- `SETCTRIN`. -/
def setCtrin (c : Word64) : List BusAccess :=
  [wr .ctrinLo (c.extractLsb' 0 32), wr .ctrinHi (c.extractLsb' 32 32)]

/-- `LOADDIN`, for 0 to 64 bytes. -/
def loadDin (b : List Byte) : List BusAccess :=
  ((List.finRange 16).take ((b.length + 3) / 4)).map fun i => wr (.din i) (wordAt b i)

/-- `READDOUT <n>`, for 0 to 64 bytes. -/
def readDout (n : Nat) : List BusAccess := ((List.finRange 16).take ((n + 3) / 4)).map fun i => rd (.dout i)

/-- `READDIGEST`. -/
def readDigest : List BusAccess := [rd (.h 0), rd (.h 1), rd (.h 2), rd (.h 3)]

/-- `READCTR`. -/
def readCtr : List BusAccess := [rd .ctrLo, rd .ctrHi]

/-! ### Padding and windows -/

/-- R133's second item: the fewest zero bytes after the 0x80 byte that make the length ≡ 56 (mod 64). -/
def padZeros (n : Nat) : Nat := (119 - n % 64) % 64

/-- R133: the padded message. -/
def padMessage (m : List Byte) : List Byte :=
  m ++ [0x80#8] ++ List.replicate (padZeros m.length) 0x00#8 ++ bytesLe64 (BitVec.ofNat 64 (8 * m.length))

/-- The 64-byte windows of a byte string, in order, the last one 1 to 64 bytes (R136, R176). -/
def windows (b : List Byte) : List (List Byte) :=
  (List.range ((b.length + 63) / 64)).map fun k => (b.drop (64 * k)).take 64

/-! ### HASH (R136) -/

/-- The accesses of HASH. -/
def hashProgram (m : List Byte) : List BusAccess :=
  cmd .rmdInit :: ((windows (padMessage m)).flatMap fun b => loadBlk b ++ [cmd .rmdCompress]) ++ readDigest

/-- `HASH(m)`: the digest is the bytes of the four words read last, the only ones read (R135, R136). -/
def hash (m : List Byte) (s : State) : Result (List Byte × State) :=
  andThen (runProgram (hashProgram m) s) fun x => .next (bytesOf (valuesOf x.1), x.2)

/-- R137: the accesses that restore a saved hash context; `readDigest` is the saving of it. -/
def restoreContext (c : Chain) : List BusAccess := [wr (.h 0) c.h0, wr (.h 1) c.h1, wr (.h 2) c.h2, wr (.h 3) c.h3]

/-! ### CONSTRUCT, PROCESS, SEEK (R175 to R177) -/

/-- The round counts the ROUNDS register can hold (R6, R175). -/
def roundsInRange (r : Int) : Bool := decide (-(2 ^ 31) ≤ r) && decide (r ≤ 2 ^ 31 - 1)

/-- The accesses of CONSTRUCT (R175): a key or nonce of an invalid length is not loaded, and its length is encoded as the
field's maximum if it does not fit (D29). -/
def constructProgram (key nonce : List Byte) (counter : Word64) (rounds : Int) : List BusAccess :=
  (if key.length = 16 ∨ key.length = 32 then loadKey key else []) ++
  (if nonce.length = 8 then loadNonce nonce else []) ++
  setCtrin counter ++
  [wr .rounds (BitVec.ofInt 32 rounds),
   cmd (.salsaInit (BitVec.ofNat 6 (min key.length 63)) (BitVec.ofNat 4 (min nonce.length 15))),
   rd .status]

/-- `CONSTRUCT(key, nonce, counter, rounds)`: answers the ERR of the STATUS read last, 0 for constructed; a round count
outside the signed 32-bit range is refused (R6, R216). -/
def construct (key nonce : List Byte) (counter : Word64 := 0#64) (rounds : Int := 20) (s : State) :
    Result (Option (BitVec 4) × State) :=
  if roundsInRange rounds then
    andThen (runProgram (constructProgram key nonce counter rounds) s) fun x =>
      .next ((valuesOf x.1).getLast?.map statusErr, x.2)
  else .refused (.roundsOutOfRange rounds)

/-- The accesses of PROCESS (R176). -/
def processProgram (data : List Byte) : List BusAccess :=
  (windows data).flatMap fun w =>
    loadDin w ++ [cmd (.salsaXor (BitVec.ofNat 7 w.length))] ++ readDout w.length

/-- `PROCESS(data)`: the output bytes of the windows, in order. Only the last window may be shorter than 64 bytes, so
they are the first `data.length` bytes of all words read (R87, R176). -/
def process (data : List Byte) (s : State) : Result (List Byte × State) :=
  andThen (runProgram (processProgram data) s) fun x => .next ((bytesOf (valuesOf x.1)).take data.length, x.2)

/-- The accesses of SEEK (R177). -/
def seekProgram (c : Word64) : List BusAccess := setCtrin c ++ [cmd .salsaSeek]

/-- `SEEK(c)`. -/
def seek (c : Word64) (s : State) : Result State :=
  andThen (runProgram (seekProgram c) s) fun x => .next x.2

/-! ### What a host may ask for -/

/-- The operations of the source's interface (R5, R6). -/
inductive HostCall where
  | hash (m : List Byte)
  | construct (key nonce : List Byte) (counter : Word64) (rounds : Int)
  | process (data : List Byte)
  | seek (c : Word64)
  | fastDecrypt
  deriving DecidableEq, Repr

/-- What a host gets back. -/
inductive HostReply where
  | bytes (b : List Byte)
  | status (err : Option (BitVec 4))
  | done
  deriving DecidableEq, Repr

/-- R216: every operation that has a procedure runs it; "fast decrypt" is refused by name. -/
def hostCall (c : HostCall) (s : State) : Result (HostReply × State) :=
  match c with
  | .hash m => andThen (hash m s) fun x => .next (.bytes x.1, x.2)
  | .construct key nonce counter rounds =>
    andThen (construct key nonce counter rounds s) fun x => .next (.status x.1, x.2)
  | .process data => andThen (process data s) fun x => .next (.bytes x.1, x.2)
  | .seek c => andThen (seek c s) fun t => .next (.done, t)
  | .fastDecrypt => .refused .fastDecrypt

end Sys2Proof.Machine
end

