-- ==== Sys2Proof/Safety.lean ====
section
/-! DEFINITION. What claims about the block speak of: the invariants of its state (10_state.md R25, R26, R32, 93 U8), a
host program without a bus error (60_exceptions.md R201), and the interleavings of several hosts (20_memory.md R62). -/

namespace Sys2Proof.Machine

/-! ### Invariants -/

/-- R25: what the constructed state satisfies while `CVALID = 1`. -/
structure ConstructedInv (k : Cipher) : Prop where
  /-- "`CR > 0` and `CR` is even". -/
  rounds_pos : 0 < k.cr.toInt
  rounds_even : k.cr.toInt % 2 = 0
  /-- The constant set is the one of the key's size. -/
  constants : k.cc = if k.ckey32 then sigma else tau
  /-- A 16-byte key occupies all eight words twice over. -/
  doubled : k.ckey32 = false → ∀ i : Fin 4, k.ck[4 + i.val] = k.ck[i.val]

/-- What holds while `CVALID = 0`: only a SALSA_INIT that succeeds writes the constructed state (R25), only commands that
need a cipher or construct one write CTR (R26), and only SALSA_XOR with a cipher writes DOUT (R27), so all of them are at
reset (an inference of the model's, log entry 13). -/
structure UnconstructedInv (s : State) : Prop where
  cipher : s.cipher = Cipher.reset
  ctr : s.ctr = 0#64
  dout : s.dout = Vector.replicate 16 0#32

/-- What holds of the block at reset and after every step. -/
structure Inv (s : State) : Prop where
  constructed : s.cipher.cvalid = true → ConstructedInv s.cipher
  unconstructed : s.cipher.cvalid = false → UnconstructedInv s
  /-- "ERR ∈ 0..5" (93 U8, R200). -/
  err_le : s.err.toNat ≤ 5

/-! ### Runs -/

/-- "A claim about a host program takes 'no BusError' as a premise" (R201). -/
def NoBusError (rs : List BusResponse) : Prop := ∀ off, BusResponse.busError off ∉ rs

/-- A write of CMD, the only access that starts a command (R55). -/
def BusAccess.startsCommand : BusAccess → Bool
  | .read _ _ => false
  | .write off width _ => writeTarget off width == some .cmd

/-- R62: `zs` is an interleaving of the accesses of two hosts, each host's in its own order. Several hosts are several
such interleavings, one after the other. -/
inductive Interleaves {α : Type} : List α → List α → List α → Prop where
  | nil : Interleaves [] [] []
  | left {x : α} {xs ys zs : List α} : Interleaves xs ys zs → Interleaves (x :: xs) ys (x :: zs)
  | right {y : α} {xs ys zs : List α} : Interleaves xs ys zs → Interleaves xs (y :: ys) (y :: zs)

end Sys2Proof.Machine
end

