-- ==== Sys2Proof/Certificates/Slice0/Obligations.lean ====
section
/-! DEFINITION. The statements about the block, for the provers. A state equation `exec i s = .next { s with … }` says the
effect and the whole frame at once: every field it does not name is unchanged (registers, STATUS.ERR, the bus side); the
block has no memory of its own. -/

open Sys2Proof Sys2Proof.Machine

/-! ### Encoding and dispatch -/

/-- R81, R55: when the next thing delivered is a 32-bit write of CMD whose data decodes to a well-formed command, the step is
`exec` of that command in the state with that write taken off the queue, followed by the write's acknowledgement. -/
def Obligations.StepRunsDecodedCommand : Prop :=
  ∀ (s : State) (rest : List BusEvent) (v : Word) (i : Instr),
    s.pending = .access (.write 0x000#9 32 v) :: rest → decode v = .ok i → i.WellFormed →
    step s = andThen (exec i { s with pending := rest }) fun t =>
      .next { t with responses := t.responses ++ [.ack] }

/-- Words written out from R80 and R83 (95 T6) decode to the commands they stand for. -/
def Obligations.WrittenOutWordsDecode : Prop :=
  decode 0x00000000#32 = .ok .nop ∧
  decode 0x00000001#32 = .ok .rmdInit ∧
  decode 0x00000002#32 = .ok .rmdCompress ∧
  decode 0x08200010#32 = .ok (.salsaInit 32#6 8#4) ∧
  decode 0x0F3F0010#32 = .ok (.salsaInit 63#6 15#4) ∧
  decode 0x00000011#32 = .ok .salsaSeek ∧
  decode 0x00004012#32 = .ok (.salsaXor 64#7) ∧
  decode 0x00002412#32 = .ok (.salsaXor 36#7)

/-- Decoding the word of a well-formed command gives the command back, for every value of every field. -/
def Obligations.DecodeOfEncode : Prop :=
  ∀ i : Instr, i.WellFormed → decode (encode i) = .ok i

/-- Each word has one meaning: a word that decodes is the encoding of the well-formed command it decodes to, so no bit of a
word is dropped. -/
def Obligations.EncodeOfDecode : Prop :=
  ∀ (v : Word) (i : Instr), decode v = .ok i → i.WellFormed ∧ encode i = v

/-- R83: "no word matches two rows": two commands whose rows a word matches are the same command, up to its fields. And a
word matches a row, spelled by its mask and match value, exactly when it decodes to that row's command with the fields of
R82 (or, for SALSA_XOR, is refused for its `LEN` only). -/
def Obligations.RowsPairwiseDisjoint : Prop :=
  (∀ (v : Word) (i j : Instr), v &&& rowMask i = rowMatch i → v &&& rowMask j = rowMatch j →
    (i = .nop ↔ j = .nop) ∧ (i = .rmdInit ↔ j = .rmdInit) ∧ (i = .rmdCompress ↔ j = .rmdCompress) ∧
    ((∃ k n, i = .salsaInit k n) ↔ ∃ k n, j = .salsaInit k n) ∧ (i = .salsaSeek ↔ j = .salsaSeek) ∧
    ((∃ l, i = .salsaXor l) ↔ ∃ l, j = .salsaXor l)) ∧
  ∀ v : Word,
    (v &&& 0xFFFFFFFF#32 = 0x00000000#32 ↔ decode v = .ok .nop) ∧
    (v &&& 0xFFFFFFFF#32 = 0x00000001#32 ↔ decode v = .ok .rmdInit) ∧
    (v &&& 0xFFFFFFFF#32 = 0x00000002#32 ↔ decode v = .ok .rmdCompress) ∧
    (v &&& 0xF0C0FFFF#32 = 0x00000010#32 ↔ decode v = .ok (.salsaInit (v.extractLsb' 16 6) (v.extractLsb' 24 4))) ∧
    (v &&& 0xFFFFFFFF#32 = 0x00000011#32 ↔ decode v = .ok .salsaSeek) ∧
    (v &&& 0xFFFF80FF#32 = 0x00000012#32 ↔
      decode v = .ok (.salsaXor (v.extractLsb' 8 7)) ∨ decode v = .error .lenOutOfRange)

/-- R84: the illegal encodings, spelled by opcode, reserved bits and unused fields, are exactly the words that decode to no
command; executing one writes BAD_COMMAND (5) to ERR and changes nothing else. -/
def Obligations.IllegalEncodingsSetBadCommand : Prop :=
  ∀ v : Word,
    let op := (v.extractLsb' 0 8).toNat
    let len := (v.extractLsb' 8 7).toNat
    let klen := (v.extractLsb' 16 6).toNat
    let nlen := (v.extractLsb' 24 4).toNat
    let illegal : Prop :=
      (0x03 ≤ op ∧ op ≤ 0x0F) ∨ 0x13 ≤ op ∨
      v.getLsbD 15 = true ∨ v.getLsbD 22 = true ∨ v.getLsbD 23 = true ∨ (v.extractLsb' 28 4).toNat ≠ 0 ∨
      ((op = 0x00 ∨ op = 0x01 ∨ op = 0x02 ∨ op = 0x11) ∧ (len ≠ 0 ∨ klen ≠ 0 ∨ nlen ≠ 0)) ∨
      (op = 0x10 ∧ len ≠ 0) ∨
      (op = 0x12 ∧ (klen ≠ 0 ∨ nlen ≠ 0 ∨ 65 ≤ len))
    (illegal ↔ ∀ i : Instr, decode v ≠ .ok i) ∧
    (illegal → ∀ s : State, execute v s = .next { s with err := 5#4 })

/-! ### NOP -/

/-- R100: NOP writes ERR <- 0 and nothing else; the word 0 is a NOP, and any other word with OP = 0 is BAD_COMMAND. -/
def Obligations.NopOnlyClearsErr : Prop :=
  decode 0x00000000#32 = .ok .nop ∧
  (∀ s : State, exec .nop s = .next { s with err := 0#4 }) ∧
  (∀ (v : Word) (s : State), v.extractLsb' 0 8 = 0#8 → v ≠ 0#32 → execute v s = .next { s with err := 5#4 })

/-! ### The hash unit -/

/-- R131: RMD_INIT writes the initial values to `H0..H3` and 0 to ERR, nothing else; reset leaves H equal to them. -/
def Obligations.RmdInitLoadsInitialValues : Prop :=
  decode 0x00000001#32 = .ok .rmdInit ∧
  (∀ s : State, exec .rmdInit s =
    .next { s with
      chain := ⟨0x67452301#32, 0xEFCDAB89#32, 0x98BADCFE#32, 0x10325476#32⟩
      err := 0#4 }) ∧
  State.reset.chain = ⟨0x67452301#32, 0xEFCDAB89#32, 0x98BADCFE#32, 0x10325476#32⟩

/-- R132: RMD_COMPRESS writes `Compress(H, MBLK)` to H and 0 to ERR, nothing else, from every state. -/
def Obligations.RmdCompressUpdatesChain : Prop :=
  decode 0x00000002#32 = .ok .rmdCompress ∧
  ∀ s : State, exec .rmdCompress s = .next { s with chain := compress s.chain s.mblk, err := 0#4 }

/-- R119 to R124: the compression function is the merge of two lines, each run for 64 steps on its own from the current
chaining state. `l j` and `r j` are the lines' registers before step `j`. -/
def Obligations.CompressMergesIndependentLines : Prop :=
  ∀ (h : Chain) (X : Vector Word 16) (l r : Nat → Line),
    l 0 = ⟨h.h0, h.h1, h.h2, h.h3⟩ → r 0 = ⟨h.h0, h.h1, h.h2, h.h3⟩ →
    (∀ j : Fin 64, l (j.val + 1) =
      ⟨(l j).d,
       rol32 ((l j).a + leftFn (roundOf j) (l j).b (l j).c (l j).d + X[rl j] + kl[roundOf j]) (sl j),
       (l j).b, (l j).c⟩) →
    (∀ j : Fin 64, r (j.val + 1) =
      ⟨(r j).d,
       rol32 ((r j).a + rightFn (roundOf j) (r j).b (r j).c (r j).d + X[rr j] + kr[roundOf j]) (sr j),
       (r j).b, (r j).c⟩) →
    compress h X =
      ⟨h.h1 + (l 64).c + (r 64).d, h.h2 + (l 64).d + (r 64).a, h.h3 + (l 64).a + (r 64).b,
       h.h0 + (l 64).b + (r 64).c⟩

/-- R111, R112: the boolean functions bit by bit, F, G, H, I by round on the left line and mirrored on the right. -/
def Obligations.BooleanFunctionsBitwise : Prop :=
  ∀ (x y z : Word) (b : Nat), b < 32 →
    (leftFn 0 x y z).getLsbD b = (x.getLsbD b ^^ y.getLsbD b ^^ z.getLsbD b) ∧
    (leftFn 1 x y z).getLsbD b = (if x.getLsbD b then y.getLsbD b else z.getLsbD b) ∧
    (leftFn 2 x y z).getLsbD b = ((x.getLsbD b || !y.getLsbD b) ^^ z.getLsbD b) ∧
    (leftFn 3 x y z).getLsbD b = (if z.getLsbD b then x.getLsbD b else y.getLsbD b) ∧
    rightFn 0 x y z = leftFn 3 x y z ∧ rightFn 1 x y z = leftFn 2 x y z ∧
    rightFn 2 x y z = leftFn 1 x y z ∧ rightFn 3 x y z = leftFn 0 x y z

/-- R9: `rol32` is the left rotation of a word for every amount from 1 to 31. -/
def Obligations.RolRotatesLeft : Prop :=
  ∀ (a : Word) (n b : Nat), 1 ≤ n → n ≤ 31 → b < 32 →
    (rol32 a n).getLsbD b = a.getLsbD ((b + (32 - n)) % 32)

/-- R113 to R117: the round of a step, the round constants, the message word each line selects and the amount it rotates by
at each step, entry by entry as the spec lists them; and what follows of them: in each round each line uses every message
word exactly once, and every rotation amount lies in 5..15. -/
def Obligations.SelectionAndRotationTables : Prop :=
  (∀ j : Fin 64, (roundOf j).val = j.val / 16) ∧
  kl = #v[0x00000000#32, 0x5A827999#32, 0x6ED9EBA1#32, 0x8F1BBCDC#32] ∧
  kr = #v[0x50A28BE6#32, 0x5C4DD124#32, 0x6D703EF3#32, 0x00000000#32] ∧
  (List.finRange 64).map (fun j => (rl j).val) =
    ([0, 1, 2, 3, 4, 5, 6, 7, 8, 9, 10, 11, 12, 13, 14, 15] ++
     [7, 4, 13, 1, 10, 6, 15, 3, 12, 0, 9, 5, 2, 14, 11, 8] ++
     [3, 10, 14, 4, 9, 15, 8, 1, 2, 7, 0, 6, 13, 11, 5, 12] ++
     [1, 9, 11, 10, 0, 8, 12, 4, 13, 3, 7, 15, 14, 5, 6, 2]) ∧
  (List.finRange 64).map (fun j => (rr j).val) =
    ([5, 14, 7, 0, 9, 2, 11, 4, 13, 6, 15, 8, 1, 10, 3, 12] ++
     [6, 11, 3, 7, 0, 13, 5, 10, 14, 15, 8, 12, 4, 9, 1, 2] ++
     [15, 5, 1, 3, 7, 14, 6, 9, 11, 8, 12, 2, 10, 0, 4, 13] ++
     [8, 6, 4, 1, 3, 11, 15, 0, 5, 12, 2, 13, 9, 7, 10, 14]) ∧
  (List.finRange 64).map sl =
    ([11, 14, 15, 12, 5, 8, 7, 9, 11, 13, 14, 15, 6, 7, 9, 8] ++
     [7, 6, 8, 13, 11, 9, 7, 15, 7, 12, 15, 9, 11, 7, 13, 12] ++
     [11, 13, 6, 7, 14, 9, 13, 15, 14, 8, 13, 6, 5, 12, 7, 5] ++
     [11, 12, 14, 15, 14, 15, 9, 8, 9, 14, 5, 6, 8, 6, 5, 12]) ∧
  (List.finRange 64).map sr =
    ([8, 9, 9, 11, 13, 15, 15, 5, 7, 7, 8, 11, 14, 14, 12, 6] ++
     [9, 13, 15, 7, 12, 8, 9, 11, 7, 7, 12, 7, 6, 15, 13, 11] ++
     [9, 7, 15, 11, 8, 6, 6, 14, 12, 13, 5, 14, 13, 13, 7, 5] ++
     [15, 5, 8, 11, 14, 14, 6, 14, 6, 9, 12, 9, 12, 5, 15, 8]) ∧
  (∀ (q : Fin 4) (w : Fin 16), ∃! j : Fin 64, roundOf j = q ∧ rl j = w) ∧
  (∀ (q : Fin 4) (w : Fin 16), ∃! j : Fin 64, roundOf j = q ∧ rr j = w) ∧
  (∀ j : Fin 64, 5 ≤ sl j ∧ sl j ≤ 15 ∧ 5 ≤ sr j ∧ sr j ≤ 15)

/-! ### The cipher unit's datapath -/

/-- R153: the sixteen slots of the input state. -/
def Obligations.InputStateLayout : Prop :=
  ∀ (k : Cipher) (c : Word64),
    let x := inputState k c
    x[0] = k.cc[0] ∧ x[1] = k.ck[0] ∧ x[2] = k.ck[1] ∧ x[3] = k.ck[2] ∧
    x[4] = k.ck[3] ∧ x[5] = k.cc[1] ∧ x[6] = k.cn[0] ∧ x[7] = k.cn[1] ∧
    x[8].toNat = c.toNat % 2 ^ 32 ∧ x[9].toNat = c.toNat / 2 ^ 32 ∧ x[10] = k.cc[2] ∧ x[11] = k.ck[4] ∧
    x[12] = k.ck[5] ∧ x[13] = k.ck[6] ∧ x[14] = k.ck[7] ∧ x[15] = k.cc[3]

/-- R154, R155: on four distinct indices a quarter-round writes these four words, each from the ones written before it, and
no other word. -/
def Obligations.QuarterRoundWritesFourWords : Prop :=
  ∀ (y0 y1 y2 y3 : Fin 16) (x : Vector Word 16), [y0, y1, y2, y3].Nodup →
    let z := quarterRound ⟨y0, y1, y2, y3⟩ x
    z[y1] = x[y1] ^^^ rol32 (x[y0] + x[y3]) 7 ∧
    z[y2] = x[y2] ^^^ rol32 (z[y1] + x[y0]) 9 ∧
    z[y3] = x[y3] ^^^ rol32 (z[y2] + z[y1]) 13 ∧
    z[y0] = x[y0] ^^^ rol32 (z[y3] + z[y2]) 18 ∧
    ∀ i : Fin 16, i ∉ [y0, y1, y2, y3] → z[i] = x[i]

/-- R156, R157: "their relative order does not change the result": the quarter-rounds of a column round, and those of a row
round, give the round's result in whatever order they are done. -/
def Obligations.QuarterRoundOrderIrrelevant : Prop :=
  ∀ (qs : List Quad) (x : Vector Word 16),
    (qs.Perm [⟨0, 4, 8, 12⟩, ⟨5, 9, 13, 1⟩, ⟨10, 14, 2, 6⟩, ⟨15, 3, 7, 11⟩] → quarterRounds qs x = columnRound x) ∧
    (qs.Perm [⟨0, 1, 2, 3⟩, ⟨5, 6, 7, 4⟩, ⟨10, 11, 8, 9⟩, ⟨15, 12, 13, 14⟩] → quarterRounds qs x = rowRound x)

/-- R158, R159: with `CR = 2 m`, the keystream block is the working array after `m` double-rounds (column round, then row
round), with the input state added word by word. `x n` is the working array before double-round `n`. -/
def Obligations.KeystreamBlockRule : Prop :=
  ∀ (k : Cipher) (c : Word64) (m : Nat) (x : Nat → Vector Word 16),
    k.cr.toInt = 2 * m → x 0 = inputState k c → (∀ n < m, x (n + 1) = rowRound (columnRound (x n))) →
    ∀ i : Fin 16, (keystreamWords k c)[i] = (x m)[i] + (inputState k c)[i] ∧
      ∀ j : Fin 4, byteView (n := 16) (keystreamWords k c) ⟨4 * i.val + j.val, by omega⟩ =
        ((x m)[i] + (inputState k c)[i]).extractLsb' (8 * j.val) 8

/-! ### The cipher unit's commands -/

/-- R170: SALSA_INIT's encoding, its three checks in order, each reporting its code and changing nothing else, and, when all
pass, the whole cipher constructed from the staging registers, the counter set and ERR cleared; nothing else changes. -/
def Obligations.SalsaInitConstructsOrReportsFirstFailure : Prop :=
  (∀ v : Word, v &&& 0xF0C0FFFF#32 = 0x00000010#32 →
    decode v = .ok (.salsaInit (v.extractLsb' 16 6) (v.extractLsb' 24 4))) ∧
  ∀ (klen : BitVec 6) (nlen : BitVec 4) (s : State),
    let keyBad : Prop := klen.toNat ≠ 16 ∧ klen.toNat ≠ 32
    let nonceBad : Prop := nlen.toNat ≠ 8
    let roundsBad : Prop := s.staging.rounds.toInt ≤ 0 ∨ s.staging.rounds.toInt % 2 ≠ 0
    (keyBad → exec (.salsaInit klen nlen) s = .next { s with err := 1#4 }) ∧
    (¬ keyBad → nonceBad → exec (.salsaInit klen nlen) s = .next { s with err := 2#4 }) ∧
    (¬ keyBad → ¬ nonceBad → roundsBad → exec (.salsaInit klen nlen) s = .next { s with err := 3#4 }) ∧
    (¬ keyBad → ¬ nonceBad → ¬ roundsBad → exec (.salsaInit klen nlen) s = .next { s with
      cipher :=
        { ck := if klen.toNat = 32 then s.staging.key else
            #v[s.staging.key[0], s.staging.key[1], s.staging.key[2], s.staging.key[3],
               s.staging.key[0], s.staging.key[1], s.staging.key[2], s.staging.key[3]]
          cn := s.staging.nonce
          cc := if klen.toNat = 32 then #v[0x61707865#32, 0x3320646E#32, 0x79622D32#32, 0x6B206574#32]
            else #v[0x61707865#32, 0x3120646E#32, 0x79622D36#32, 0x6B206574#32]
          cr := s.staging.rounds
          cvalid := true
          ckey32 := decide (klen.toNat = 32) }
      ctr := s.staging.ctrinHi ++ s.staging.ctrinLo
      err := 0#4 })

/-- R171: SALSA_SEEK moves the counter to the staged value when there is a cipher; without one it reports NO_CIPHER (4).
Nothing else changes. -/
def Obligations.SalsaSeekSetsCounter : Prop :=
  decode 0x00000011#32 = .ok .salsaSeek ∧
  (∀ s : State, s.cipher.cvalid = true →
    exec .salsaSeek s = .next { s with ctr := s.staging.ctrinHi ++ s.staging.ctrinLo, err := 0#4 }) ∧
  (∀ s : State, s.cipher.cvalid = false → exec .salsaSeek s = .next { s with err := 4#4 })

/-- R172, R160: SALSA_XOR's encoding (a word of its row with `LEN > 64` is no command), its checks in order, the empty
window, and a window of 1 to 64 bytes: DOUT lane by lane is the input byte XOR the keystream byte within the window and 0 at
and past its length, the counter advances by one mod 2^64 and ERR is cleared; nothing else changes. -/
def Obligations.SalsaXorProcessesOneWindow : Prop :=
  (∀ v : Word, v &&& 0xFFFF80FF#32 = 0x00000012#32 →
    ((v.extractLsb' 8 7).toNat ≤ 64 → decode v = .ok (.salsaXor (v.extractLsb' 8 7))) ∧
    (64 < (v.extractLsb' 8 7).toNat → ∀ s : State, execute v s = .next { s with err := 5#4 })) ∧
  ∀ (len : BitVec 7) (s : State), len.toNat ≤ 64 →
    (s.cipher.cvalid = false → exec (.salsaXor len) s = .next { s with err := 4#4 }) ∧
    (s.cipher.cvalid = true → len.toNat = 0 → exec (.salsaXor len) s = .next { s with err := 0#4 }) ∧
    (s.cipher.cvalid = true → 1 ≤ len.toNat →
      ∃ out : Vector Word 16,
        exec (.salsaXor len) s = .next { s with dout := out, ctr := s.ctr + 1#64, err := 0#4 } ∧
        ∀ i : Fin 64, byteView (n := 16) out i =
          if i.val < len.toNat then
            byteView (n := 16) s.din i ^^^ byteView (n := 16) (keystreamWords s.cipher s.ctr) i
          else 0x00#8)

/-- R172's corner case: SALSA_XOR applied to its own output at the same counter restores the window of the input. -/
def Obligations.SalsaXorIsSelfInverse : Prop :=
  ∀ (len : BitVec 7) (s t : State), s.cipher.cvalid = true → len.toNat ≤ 64 →
    exec (.salsaXor len) s = .next t →
    ∃ u : State, exec (.salsaXor len) { t with din := t.dout, ctr := s.ctr } = .next u ∧
      ∀ i : Fin 64, i.val < len.toNat → byteView (n := 16) u.dout i = byteView (n := 16) s.din i

/-! ### What the commands leave alone, and what only they change -/

/-- The units share only STATUS (R213, 10_state.md): the hash unit's commands and NOP change nothing of the cipher unit; the
cipher unit's commands change nothing of the hash unit; no command changes a buffer or staging register that the host
fills, or the bus side. -/
def Obligations.CommandFrames : Prop :=
  ∀ (i : Instr) (s t : State), exec i s = .next t →
    (t.mblk = s.mblk ∧ t.staging = s.staging ∧ t.din = s.din ∧ t.pending = s.pending ∧ t.responses = s.responses) ∧
    ((i = .nop ∨ i = .rmdInit ∨ i = .rmdCompress) →
      t.cipher = s.cipher ∧ t.ctr = s.ctr ∧ t.dout = s.dout ∧ t.err = 0#4) ∧
    (i = .nop ∨ i = .salsaSeek ∨ (∃ k n, i = .salsaInit k n) ∨ (∃ l, i = .salsaXor l) → t.chain = s.chain)

/-- R202: a write of CMD always completes normally, and a command that ends with a code other than 0 has changed nothing but
ERR. -/
def Obligations.CommandErrorsArePrecise : Prop :=
  ∀ (v : Word) (s : State), ∃ t : State, busAccess (.write 0x000#9 32 v) s = .next (.ack, t) ∧ execute v s = .next t ∧
    (t.err ≠ 0#4 → t = { s with err := t.err })

/-- R200, R203: the code a command word leaves in ERR is the first that applies, in the order BAD_COMMAND, NO_CIPHER,
INVALID_KEY_SIZE, INVALID_NONCE_SIZE, INVALID_ROUNDS, and 0 when none applies. -/
def Obligations.ErrorCodesInPriorityOrder : Prop :=
  ∀ (v : Word) (s : State),
    let op := (v.extractLsb' 0 8).toNat
    let klen := (v.extractLsb' 16 6).toNat
    let nlen := (v.extractLsb' 24 4).toNat
    ∃ t : State, execute v s = .next t ∧
      ((∀ i : Instr, decode v ≠ .ok i) → t.err = 5#4) ∧
      ((∃ i : Instr, decode v = .ok i) → t.err.toNat =
        if (op = 0x11 ∨ op = 0x12) ∧ s.cipher.cvalid = false then 4
        else if op = 0x10 ∧ klen ≠ 16 ∧ klen ≠ 32 then 1
        else if op = 0x10 ∧ nlen ≠ 8 then 2
        else if op = 0x10 ∧ (s.staging.rounds.toInt ≤ 0 ∨ s.staging.rounds.toInt % 2 ≠ 0) then 3
        else 0)

/-- R56: "RMD_INIT, SALSA_SEEK and NOP are idempotent". -/
def Obligations.IdempotentCommands : Prop :=
  ∀ (i : Instr) (s t : State), i = .rmdInit ∨ i = .salsaSeek ∨ i = .nop →
    exec i s = .next t → exec i t = .next t

/-- R25, R26, R173: what one step can do to the constructed cipher and its counter. Either both keep their values; or the
step was a reset; or it executed a SALSA_INIT that succeeded, which set the counter to the staged value; or a SALSA_SEEK
that succeeded, which did so and kept the cipher; or a SALSA_XOR with `LEN >= 1`, which added 1 mod 2^64 and kept the
cipher. -/
def Obligations.CipherAndCounterLaw : Prop :=
  ∀ s t : State, step s = .next t →
    (t.cipher = s.cipher ∧ t.ctr = s.ctr) ∨
    (∃ rest, s.pending = .reset :: rest) ∨
    (∃ rest v i, s.pending = .access (.write 0x000#9 32 v) :: rest ∧ decode v = .ok i ∧ t.err = 0#4 ∧
      (((∃ k n, i = .salsaInit k n) ∧ t.cipher.cvalid = true ∧ t.ctr = s.staging.ctrinHi ++ s.staging.ctrinLo) ∨
       (i = .salsaSeek ∧ t.cipher = s.cipher ∧ t.ctr = s.staging.ctrinHi ++ s.staging.ctrinLo) ∨
       (∃ l, i = .salsaXor l ∧ 1 ≤ l.toNat ∧ t.cipher = s.cipher ∧ t.ctr = s.ctr + 1#64)))

/-- R30: "`ERR` is written by every command, and only by commands" (reset aside): a step that serves an access which is no
32-bit write of CMD keeps ERR, whatever the access and its response. -/
def Obligations.OnlyCommandsWriteErr : Prop :=
  ∀ (s t : State) (a : BusAccess) (rest : List BusEvent), s.pending = .access a :: rest →
    (∀ v, a ≠ .write 0x000#9 32 v) → step s = .next t → t.err = s.err

/-! ### The register window -/

/-- R54, R55: the permitted accesses, spelled by width, alignment and offset. -/
def Obligations.PermittedAccesses : Prop :=
  ∀ (off : BitVec 9) (width : Nat) (v : Word),
    let o := off.toNat
    (permitted (.read off width) = true ↔ width = 32 ∧ o % 4 = 0 ∧
      (o = 0x004 ∨ (0x010 ≤ o ∧ o ≤ 0x01C) ∨ (0x040 ≤ o ∧ o ≤ 0x0B0) ∨ o = 0x0C0 ∨ o = 0x0C4 ∨
        (0x100 ≤ o ∧ o ≤ 0x17C))) ∧
    (permitted (.write off width v) = true ↔ width = 32 ∧ o % 4 = 0 ∧
      (o = 0x000 ∨ (0x010 ≤ o ∧ o ≤ 0x01C) ∨ (0x040 ≤ o ∧ o ≤ 0x0B0) ∨ (0x100 ≤ o ∧ o ≤ 0x13C)))

/-- R55, R201, R205: an access that is not permitted gets the error response and changes nothing; the block goes on with the
next event delivered. That the error response is a next state and no fault is the model's reading (log entry 1). -/
def Obligations.UnpermittedAccessGetsBusError : Prop :=
  ∀ (s : State) (off : BitVec 9) (width : Nat) (v : Word),
    (permitted (.read off width) = false → busAccess (.read off width) s = .next (.busError off, s)) ∧
    (permitted (.write off width v) = false → busAccess (.write off width v) s = .next (.busError off, s)) ∧
    (∀ (a : BusAccess) (rest : List BusEvent), (a = .read off width ∨ a = .write off width v) →
      permitted a = false → s.pending = .access a :: rest →
      step s = .next { s with pending := rest, responses := s.responses ++ [.busError off] })

/-- R54, R56: what a read of each readable register returns; a read changes nothing. -/
def Obligations.ReadsReturnRegisters : Prop :=
  ∀ s : State,
    busAccess (.read 0x010#9 32) s = .next (.value s.chain.h0, s) ∧
    busAccess (.read 0x014#9 32) s = .next (.value s.chain.h1, s) ∧
    busAccess (.read 0x018#9 32) s = .next (.value s.chain.h2, s) ∧
    busAccess (.read 0x01C#9 32) s = .next (.value s.chain.h3, s) ∧
    (∀ i : Fin 16, busAccess (.read (BitVec.ofNat 9 (0x040 + 4 * i.val)) 32) s = .next (.value s.mblk[i], s)) ∧
    (∀ i : Fin 8, busAccess (.read (BitVec.ofNat 9 (0x080 + 4 * i.val)) 32) s = .next (.value s.staging.key[i], s)) ∧
    (∀ i : Fin 2, busAccess (.read (BitVec.ofNat 9 (0x0A0 + 4 * i.val)) 32) s = .next (.value s.staging.nonce[i], s)) ∧
    busAccess (.read 0x0A8#9 32) s = .next (.value s.staging.ctrinLo, s) ∧
    busAccess (.read 0x0AC#9 32) s = .next (.value s.staging.ctrinHi, s) ∧
    busAccess (.read 0x0B0#9 32) s = .next (.value s.staging.rounds, s) ∧
    (∃ lo hi : Word, busAccess (.read 0x0C0#9 32) s = .next (.value lo, s) ∧
      busAccess (.read 0x0C4#9 32) s = .next (.value hi, s) ∧ s.ctr = hi ++ lo) ∧
    (∀ i : Fin 16, busAccess (.read (BitVec.ofNat 9 (0x100 + 4 * i.val)) 32) s = .next (.value s.din[i], s)) ∧
    (∀ i : Fin 16, busAccess (.read (BitVec.ofNat 9 (0x140 + 4 * i.val)) 32) s = .next (.value s.dout[i], s))

/-- R54, R55, R56: what a write of each writable storage register stores; it has no other effect. -/
def Obligations.WritesStoreRegisters : Prop :=
  ∀ (s : State) (v : Word),
    busAccess (.write 0x010#9 32 v) s = .next (.ack, { s with chain := { s.chain with h0 := v } }) ∧
    busAccess (.write 0x014#9 32 v) s = .next (.ack, { s with chain := { s.chain with h1 := v } }) ∧
    busAccess (.write 0x018#9 32 v) s = .next (.ack, { s with chain := { s.chain with h2 := v } }) ∧
    busAccess (.write 0x01C#9 32 v) s = .next (.ack, { s with chain := { s.chain with h3 := v } }) ∧
    (∀ i : Fin 16, busAccess (.write (BitVec.ofNat 9 (0x040 + 4 * i.val)) 32 v) s =
      .next (.ack, { s with mblk := s.mblk.set i v })) ∧
    (∀ i : Fin 8, busAccess (.write (BitVec.ofNat 9 (0x080 + 4 * i.val)) 32 v) s =
      .next (.ack, { s with staging := { s.staging with key := s.staging.key.set i v } })) ∧
    (∀ i : Fin 2, busAccess (.write (BitVec.ofNat 9 (0x0A0 + 4 * i.val)) 32 v) s =
      .next (.ack, { s with staging := { s.staging with nonce := s.staging.nonce.set i v } })) ∧
    busAccess (.write 0x0A8#9 32 v) s = .next (.ack, { s with staging := { s.staging with ctrinLo := v } }) ∧
    busAccess (.write 0x0AC#9 32 v) s = .next (.ack, { s with staging := { s.staging with ctrinHi := v } }) ∧
    busAccess (.write 0x0B0#9 32 v) s = .next (.ack, { s with staging := { s.staging with rounds := v } }) ∧
    (∀ i : Fin 16, busAccess (.write (BitVec.ofNat 9 (0x100 + 4 * i.val)) 32 v) s =
      .next (.ack, { s with din := s.din.set i v }))

/-- R54, R56: a storage register reads back as written, and every access to another offset reads as it would have before. -/
def Obligations.WriteReadsBackAlone : Prop :=
  ∀ (s : State) (off : BitVec 9) (v : Word), permitted (.write off 32 v) = true → off ≠ 0x000#9 →
    ∃ t : State, busAccess (.write off 32 v) s = .next (.ack, t) ∧
      busAccess (.read off 32) t = .next (.value v, t) ∧
      ∀ (off' : BitVec 9) (width : Nat), off' ≠ off →
        ∃ r : BusResponse, busAccess (.read off' width) s = .next (r, s) ∧ busAccess (.read off' width) t = .next (r, t)

/-- R29: the fields of STATUS, its reserved bits, and that a write to it is a bus error. -/
def Obligations.StatusFields : Prop :=
  ∀ s : State,
    (∃ w : Word, busAccess (.read 0x004#9 32) s = .next (.value w, s) ∧
      w.extractLsb' 0 4 = 0#4 ∧ w.extractLsb' 4 4 = s.err ∧ w.getLsbD 8 = s.cipher.cvalid ∧
      w.getLsbD 9 = (s.cipher.cvalid && s.cipher.ckey32) ∧ w.extractLsb' 10 22 = 0#22) ∧
    (∀ v : Word, busAccess (.write 0x004#9 32 v) s = .next (.busError 0x004#9, s))

/-- R53: the window is the 512 addresses from `BASE`, and an address in it stands for its low nine bits as offset. That an
address outside it faults is the model's choice (log entry 4). -/
def Obligations.WindowAtBase : Prop :=
  ∀ (c : Config) (addr : Nat) (mk : BitVec 9 → BusAccess) (s : State),
    (c.base ≤ addr → addr ≤ c.base + 0x1FF →
      hostAccess c addr mk s = busAccess (mk (BitVec.ofNat 9 (addr % 512))) s ∧
        addr = c.base + (BitVec.ofNat 9 (addr % 512)).toNat) ∧
    ((addr < c.base ∨ c.base + 0x1FF < addr) → hostAccess c addr mk s = .fault (.outsideWindow addr))

/-! ### Steps, runs and reset -/

/-- R216, R240: every delivered access completes in its own step, is taken off the queue, and gets exactly one response; a
step never faults and never refuses. -/
def Obligations.EveryAccessCompletes : Prop :=
  ∀ (s : State) (a : BusAccess) (rest : List BusEvent), s.pending = .access a :: rest →
    ∃ (t : State) (r : BusResponse), step s = .next t ∧ t.pending = rest ∧ t.responses = s.responses ++ [r]

/-- R61, R12: the accesses delivered are performed one at a time in the order delivered, each on the state the one before it
left: stepping through a queue of accesses is running them as a program, the responses in order. -/
def Obligations.StepsPerformAccessesInOrder : Prop :=
  ∀ (p : List BusAccess) (s : State), s.pending = p.map .access →
    ∃ (rs : List BusResponse) (t : State), runProgram p { s with pending := [] } = .next (rs, t) ∧
      Host.Core.run Sys2Proof.core p.length s = .next { t with pending := [], responses := s.responses ++ rs } ∧
      rs.length = p.length

/-- R22, R231: while nothing is delivered the block does nothing. That this is a step which changes nothing is the model's
choice (log entry 5). -/
def Obligations.IdleBlockDoesNothing : Prop :=
  ∀ s : State, s.pending = [] → step s = .next s

/-- R230: every register's value after reset, and after the reset signal in any state. -/
def Obligations.ResetEstablishesResetValues : Prop :=
  let atReset : State → Prop := fun t =>
    t.chain = ⟨0x67452301#32, 0xEFCDAB89#32, 0x98BADCFE#32, 0x10325476#32⟩ ∧
    t.mblk = Vector.replicate 16 0#32 ∧
    t.staging =
      { key := Vector.replicate 8 0#32, nonce := Vector.replicate 2 0#32, ctrinLo := 0#32, ctrinHi := 0#32,
        rounds := 20#32 } ∧
    t.cipher =
      { ck := Vector.replicate 8 0#32, cn := Vector.replicate 2 0#32, cc := Vector.replicate 4 0#32, cr := 0#32,
        cvalid := false, ckey32 := false } ∧
    t.ctr = 0#64 ∧ t.din = Vector.replicate 16 0#32 ∧ t.dout = Vector.replicate 16 0#32 ∧ t.err = 0#4
  atReset State.reset ∧
  ∀ (s : State) (rest : List BusEvent), s.pending = .reset :: rest → ∃ t : State, step s = .next t ∧ atReset t

/-- The model's own bus side, empty at reset, is left alone by the reset signal. This is the model's choice (log entries 2
and 3). -/
def Obligations.ResetSignalKeepsBusSide : Prop :=
  State.reset.pending = [] ∧ State.reset.responses = [] ∧
  ∀ (s t : State) (rest : List BusEvent), s.pending = .reset :: rest → step s = .next t →
    t.pending = rest ∧ t.responses = s.responses

/-- R25, R26, R27, R200: the block's invariant is kept by every step from every state that has it. While `CVALID = 1` the
round count is positive and even, the constant set is the key size's and a 16-byte key is doubled; while `CVALID = 0` the
constructed state, CTR and DOUT are at reset (the model's inference, log entry 13); ERR is at most 5. -/
def Obligations.StepKeepsBlockInvariant : Prop :=
  ∀ s t : State, Inv s → step s = .next t → Inv t

/-- The invariant holds at reset. -/
def Obligations.ResetHasBlockInvariant : Prop := Inv State.reset

/-- R57: the two halves of CTR read by one host are halves of one counter value when no command runs between the reads,
whatever other accesses come before them and between them. -/
def Obligations.CounterHalvesAgree : Prop :=
  ∀ (p q : List BusAccess) (s : State), (∀ a ∈ q, a.startsCommand = false) →
    ∃ (rs : List BusResponse) (t : State) (lo hi : Word),
      runProgram (p ++ rd .ctrLo :: q ++ [rd .ctrHi]) s = .next (rs, t) ∧
      rs[p.length]? = some (.value lo) ∧ rs[p.length + 1 + q.length]? = some (.value hi) ∧ t.ctr = hi ++ lo

/-- R56, R62: a second host that only reads does not disturb the first: whatever the interleaving, the state after it is the
state after the first host's accesses alone. -/
def Obligations.ReadingHostDoesNotDisturb : Prop :=
  ∀ (xs ys zs : List BusAccess) (s : State), Interleaves xs ys zs → (∀ y ∈ ys, ∃ off width, y = .read off width) →
    ∃ (rs rs' : List BusResponse) (t : State), runProgram xs s = .next (rs, t) ∧ runProgram zs s = .next (rs', t)

/-! ### Host procedures -/

/-- R133: the padded message is the message, 0x80, the fewest zero bytes that make the length 56 mod 64, and the bit length
mod 2^64 in eight little-endian bytes; its length is `64 * (floor((n + 8) / 64) + 1)`. -/
def Obligations.PaddingRule : Prop :=
  ∀ m : List Byte,
    ∃ (z : Nat) (lenBytes : List Byte), z ≤ 63 ∧
      padMessage m = m ++ [0x80#8] ++ List.replicate z 0x00#8 ++ lenBytes ∧
      (m.length + 1 + z) % 64 = 56 ∧ lenBytes.length = 8 ∧
      (∀ i : Fin 8, lenBytes[i.val]?.map BitVec.toNat = some (8 * m.length % 2 ^ 64 / 2 ^ (8 * i.val) % 2 ^ 8)) ∧
      (padMessage m).length = 64 * ((m.length + 8) / 64 + 1)

/-- R135, R136: HASH never fails; its answer is the 16 bytes of the compression of the padded message's blocks, in order, from
the initial values, whatever the state it starts in; ERR is 0 after it and the cipher unit is as before. -/
def Obligations.HashIsFoldOfCompress : Prop :=
  ∀ (m : List Byte) (s : State),
    let H := (windows (padMessage m)).foldl (fun h b => compress h (Vector.ofFn fun i : Fin 16 => wordAt b i.val))
      ⟨0x67452301#32, 0xEFCDAB89#32, 0x98BADCFE#32, 0x10325476#32⟩
    ∃ t : State, hash m s = .next (bytesLe32 H.h0 ++ bytesLe32 H.h1 ++ bytesLe32 H.h2 ++ bytesLe32 H.h3, t) ∧
      t.chain = H ∧ t.err = 0#4 ∧ t.staging = s.staging ∧ t.cipher = s.cipher ∧ t.ctr = s.ctr ∧ t.din = s.din ∧
      t.dout = s.dout

/-- R137: a hash context read out and written back later is the same context, and the restoring changes nothing else. -/
def Obligations.HashContextSavesAndRestores : Prop :=
  ∀ s u : State,
    ∃ (a b c d : Word), runProgram readDigest s = .next ([.value a, .value b, .value c, .value d], s) ∧
      runProgram (restoreContext ⟨a, b, c, d⟩) u = .next ([.ack, .ack, .ack, .ack], { u with chain := s.chain })

/-- R175: CONSTRUCT answers the source's first error that applies, and then leaves any earlier cipher as it was; with none it
answers 0 and the cipher holds the key and nonce words little-endian, the constant set of the key's size, the rounds and
the counter. The hash unit and the data buffers are unchanged either way. -/
def Obligations.ConstructOutcomes : Prop :=
  ∀ (key nonce : List Byte) (counter : Word64) (rounds : Int) (s : State),
    -(2 ^ 31) ≤ rounds → rounds ≤ 2 ^ 31 - 1 →
    ∃ (e : BitVec 4) (t : State), construct key nonce counter rounds s = .next (some e, t) ∧
      e.toNat = (if key.length ≠ 16 ∧ key.length ≠ 32 then 1 else if nonce.length ≠ 8 then 2
        else if rounds ≤ 0 ∨ rounds % 2 ≠ 0 then 3 else 0) ∧
      t.err = e ∧ t.chain = s.chain ∧ t.mblk = s.mblk ∧ t.din = s.din ∧ t.dout = s.dout ∧
      (e ≠ 0#4 → t.cipher = s.cipher ∧ t.ctr = s.ctr) ∧
      (e = 0#4 → t.ctr = counter ∧ t.cipher.cvalid = true ∧ t.cipher.cr.toInt = rounds ∧
        t.cipher.ckey32 = decide (key.length = 32) ∧
        t.cipher.cc = (if key.length = 32 then #v[0x61707865#32, 0x3320646E#32, 0x79622D32#32, 0x6B206574#32]
          else #v[0x61707865#32, 0x3120646E#32, 0x79622D36#32, 0x6B206574#32]) ∧
        (∀ i : Fin 8, t.cipher.ck[i] = wordAt key (if key.length = 32 then i.val else i.val % 4)) ∧
        (∀ i : Fin 2, t.cipher.cn[i] = wordAt nonce i.val))

/-- R177: SEEK stages the counter and moves CTR to it, whatever CTR was; without a cipher the command it issues reports
NO_CIPHER (4). Nothing else changes. -/
def Obligations.SeekOverwritesCounter : Prop :=
  ∀ (c : Word64) (s : State),
    (s.cipher.cvalid = true → seek c s = .next { s with
      staging := { s.staging with ctrinLo := c.extractLsb' 0 32, ctrinHi := c.extractLsb' 32 32 }, ctr := c, err := 0#4 }) ∧
    (s.cipher.cvalid = false → seek c s = .next { s with
      staging := { s.staging with ctrinLo := c.extractLsb' 0 32, ctrinHi := c.extractLsb' 32 32 }, err := 4#4 })

/-- R176, R172, R159: PROCESS with a cipher answers as many bytes as it is given, byte `n` XORed with byte `n mod 64` of the
keystream block at counter value `ctr + n div 64`; the counter advances by the number of windows; the cipher and the
hash unit are unchanged. -/
def Obligations.ProcessXorsKeystream : Prop :=
  ∀ (data : List Byte) (s : State), s.cipher.cvalid = true →
    ∃ (out : List Byte) (t : State), process data s = .next (out, t) ∧ out.length = data.length ∧
      (∀ n : Nat, n < data.length → out.getD n 0x00#8 = data.getD n 0x00#8 ^^^
        byteView (n := 16) (keystreamWords s.cipher (s.ctr + BitVec.ofNat 64 (n / 64))) (Fin.ofNat 64 n)) ∧
      t.ctr = s.ctr + BitVec.ofNat 64 ((data.length + 63) / 64) ∧
      t.cipher = s.cipher ∧ t.staging = s.staging ∧ t.chain = s.chain ∧ t.mblk = s.mblk

/-- R178, round trip: PROCESS of PROCESS's answer, with an equal cipher at the same counter, answers the plaintext. -/
def Obligations.ProcessRoundTrip : Prop :=
  ∀ (data out : List Byte) (s t u : State), s.cipher.cvalid = true → process data s = .next (out, t) →
    u.cipher = s.cipher → u.ctr = s.ctr → ∃ t' : State, process out u = .next (data, t')

/-- R178, continuity: when the first part's length is a multiple of 64, PROCESS of two parts one after the other answers
what PROCESS of the whole answers, and leaves the same counter. -/
def Obligations.ProcessContinuity : Prop :=
  ∀ (a b : List Byte) (s : State), s.cipher.cvalid = true → a.length % 64 = 0 →
    ∃ (oa ob : List Byte) (t t1 t2 : State), process a s = .next (oa, t1) ∧ process b t1 = .next (ob, t2) ∧
      process (a ++ b) s = .next (oa ++ ob, t) ∧ t2.ctr = t.ctr

/-- R178, state purity: seeking to `n` and processing answers what a fresh cipher constructed with counter `n` answers, and
leaves the same counter. -/
def Obligations.SeekThenProcessIsPure : Prop :=
  ∀ (key nonce data : List Byte) (c n : Word64) (rounds : Int) (s s' t0 t1 : State),
    construct key nonce c rounds s = .next (some 0#4, t0) →
    construct key nonce n rounds s' = .next (some 0#4, t1) →
    ∃ (u v w : State) (out : List Byte), seek n t0 = .next u ∧ process data u = .next (out, v) ∧
      process data t1 = .next (out, w) ∧ v.ctr = w.ctr

/-- R6, R216: what the model refuses by name at the host's level: "fast decrypt", and a round count outside the signed
32-bit range. Nothing else is refused: every other call answers. That PROCESS answers without a cipher too is the model's
choice: the spec gives it no result there (log entry 10). -/
def Obligations.HostCallsRefusedByName : Prop :=
  ∀ (c : HostCall) (s : State),
    (c = .fastDecrypt → hostCall c s = .refused .fastDecrypt) ∧
    (∀ key nonce counter rounds, c = .construct key nonce counter rounds → (rounds < -(2 ^ 31) ∨ 2 ^ 31 - 1 < rounds) →
      hostCall c s = .refused (.roundsOutOfRange rounds)) ∧
    (c ≠ .fastDecrypt →
      (∀ key nonce counter rounds, c = .construct key nonce counter rounds →
        -(2 ^ 31) ≤ rounds ∧ rounds ≤ 2 ^ 31 - 1) →
      ∃ (r : HostReply) (t : State), hostCall c s = .next (r, t))

/-! ### The bytes of words, and the windows of a byte string -/

/-- R10: `le32` puts the first byte lowest, `bytesLe32` is its inverse, `bytesLe64` gives eight bytes, least significant
first. -/
def Obligations.LittleEndianPacking : Prop :=
  (∀ b0 b1 b2 b3 : Byte,
    (le32 b0 b1 b2 b3).toNat = b0.toNat + 2 ^ 8 * b1.toNat + 2 ^ 16 * b2.toNat + 2 ^ 24 * b3.toNat ∧
    bytesLe32 (le32 b0 b1 b2 b3) = [b0, b1, b2, b3]) ∧
  (∀ w : Word, bytesLe32 w = [w.extractLsb' 0 8, w.extractLsb' 8 8, w.extractLsb' 16 8, w.extractLsb' 24 8]) ∧
  (∀ (b0 b1 b2 b3 : Byte) (w : Word), bytesLe32 w = [b0, b1, b2, b3] → le32 b0 b1 b2 b3 = w) ∧
  (∀ v : Word64, bytesLe64 v = (List.range 8).map fun i => v.extractLsb' (8 * i) 8)

/-- R50: word `i` of a byte string is `le32` of its bytes `4 i` to `4 i + 3`, where all four are there. -/
def Obligations.WordAtPacksFourBytes : Prop :=
  ∀ (a b : List Byte) (b0 b1 b2 b3 : Byte) (i : Nat), a.length = 4 * i →
    wordAt (a ++ [b0, b1, b2, b3] ++ b) i = le32 b0 b1 b2 b3

/-- R176: the windows of a byte string are its pieces in order, 64 bytes each, the last one 1 to 64 bytes; the empty string
has none. -/
def Obligations.WindowsCutInOrder : Prop :=
  ∀ b : List Byte,
    (windows b).flatten = b ∧ (∀ w ∈ windows b, 1 ≤ w.length ∧ w.length ≤ 64) ∧
    (∀ w ∈ (windows b).dropLast, w.length = 64) ∧ (b = [] → windows b = [])
end

