-- ==== Sys2Proof/Laws/Bits.lean ====
section
/-! SUPPORT. Little-endian packing and the byte view are inverse to one another (00_scope.md R10, 20_memory.md R50). -/

namespace Sys2Proof.Machine

/-- The byte lanes of a packed word are the bytes packed. -/
theorem byteOf_le32 (b0 b1 b2 b3 : Byte) :
    byteOf (le32 b0 b1 b2 b3) 0 = b0 ∧ byteOf (le32 b0 b1 b2 b3) 1 = b1 ∧
      byteOf (le32 b0 b1 b2 b3) 2 = b2 ∧ byteOf (le32 b0 b1 b2 b3) 3 = b3 := by
  refine ⟨?_, ?_, ?_, ?_⟩ <;>
  · apply BitVec.eq_of_getLsbD_eq
    intro i hi
    simp only [byteOf, le32, BitVec.getLsbD_extractLsb', BitVec.getLsbD_or, BitVec.getLsbD_shiftLeft,
      BitVec.getLsbD_setWidth]
    simp +arith [hi]
    try grind

/-- Packing the byte lanes of a word gives the word back. -/
theorem le32_byteOf (w : Word) : le32 (byteOf w 0) (byteOf w 1) (byteOf w 2) (byteOf w 3) = w := by
  apply BitVec.eq_of_getLsbD_eq
  intro i hi
  simp only [byteOf, le32, BitVec.getLsbD_extractLsb', BitVec.getLsbD_or, BitVec.getLsbD_shiftLeft,
    BitVec.getLsbD_setWidth]
  rcases (by omega : i < 8 ∨ (8 ≤ i ∧ i < 16) ∨ (16 ≤ i ∧ i < 24) ∨ (24 ≤ i ∧ i < 32)) with h | h | h | h <;>
    grind

/-- The byte view of a packed array is the byte function packed (R50). -/
theorem byteView_packBytes {n : Nat} (b : Fin (4 * n) → Byte) (i : Fin (4 * n)) : byteView (packBytes b) i = b i := by
  obtain ⟨i, hi⟩ := i
  have h := byteOf_le32 (b ⟨4 * (i / 4), by omega⟩) (b ⟨4 * (i / 4) + 1, by omega⟩)
    (b ⟨4 * (i / 4) + 2, by omega⟩) (b ⟨4 * (i / 4) + 3, by omega⟩)
  have hr : i % 4 = 0 ∨ i % 4 = 1 ∨ i % 4 = 2 ∨ i % 4 = 3 := by omega
  simp only [byteView, packBytes, Vector.getElem_ofFn]
  rcases hr with hr | hr | hr | hr <;> rw [hr]
  · rw [h.1]; congr 2; omega
  · rw [h.2.1]; congr 2; omega
  · rw [h.2.2.1]; congr 2; omega
  · rw [h.2.2.2]; congr 2; omega

/-- Packing the byte view of an array gives the array back. -/
theorem packBytes_byteView {n : Nat} (x : Vector Word n) : packBytes (byteView x) = x := by
  ext i hi : 1
  simp only [packBytes, byteView, Vector.getElem_ofFn]
  have e0 : (4 * i) / 4 = i := by omega
  have e1 : (4 * i + 1) / 4 = i := by omega
  have e2 : (4 * i + 2) / 4 = i := by omega
  have e3 : (4 * i + 3) / 4 = i := by omega
  have m0 : (4 * i) % 4 = 0 := by omega
  have m1 : (4 * i + 1) % 4 = 1 := by omega
  have m2 : (4 * i + 2) % 4 = 2 := by omega
  have m3 : (4 * i + 3) % 4 = 3 := by omega
  simp only [e0, e1, e2, e3, m0, m1, m2, m3]
  exact le32_byteOf _

end Sys2Proof.Machine
end

