-- ==== Sys2Proof/Laws/State.lean ====
section
/-! SUPPORT. The field lemmas of State: for every update and every field, what the field is after the update. All are true
by definition; a later proof cites them (through simp) and unfolds no record. -/

namespace Sys2Proof.Machine

/-! ### `State.withChain` -/

section
variable (s : State) (c : Chain)

@[simp] theorem State.withChain_err : (s.withChain c).err = s.err := rfl
@[simp] theorem State.withChain_chain : (s.withChain c).chain = c := rfl
@[simp] theorem State.withChain_mblk : (s.withChain c).mblk = s.mblk := rfl
@[simp] theorem State.withChain_staging : (s.withChain c).staging = s.staging := rfl
@[simp] theorem State.withChain_cipher : (s.withChain c).cipher = s.cipher := rfl
@[simp] theorem State.withChain_ctr : (s.withChain c).ctr = s.ctr := rfl
@[simp] theorem State.withChain_din : (s.withChain c).din = s.din := rfl
@[simp] theorem State.withChain_dout : (s.withChain c).dout = s.dout := rfl
@[simp] theorem State.withChain_pending : (s.withChain c).pending = s.pending := rfl
@[simp] theorem State.withChain_responses : (s.withChain c).responses = s.responses := rfl

end

/-! ### `State.withMblk` -/

section
variable (s : State) (m : Vector Word 16)

@[simp] theorem State.withMblk_err : (s.withMblk m).err = s.err := rfl
@[simp] theorem State.withMblk_chain : (s.withMblk m).chain = s.chain := rfl
@[simp] theorem State.withMblk_mblk : (s.withMblk m).mblk = m := rfl
@[simp] theorem State.withMblk_staging : (s.withMblk m).staging = s.staging := rfl
@[simp] theorem State.withMblk_cipher : (s.withMblk m).cipher = s.cipher := rfl
@[simp] theorem State.withMblk_ctr : (s.withMblk m).ctr = s.ctr := rfl
@[simp] theorem State.withMblk_din : (s.withMblk m).din = s.din := rfl
@[simp] theorem State.withMblk_dout : (s.withMblk m).dout = s.dout := rfl
@[simp] theorem State.withMblk_pending : (s.withMblk m).pending = s.pending := rfl
@[simp] theorem State.withMblk_responses : (s.withMblk m).responses = s.responses := rfl

end

/-! ### `State.withStaging` -/

section
variable (s : State) (g : Staging)

@[simp] theorem State.withStaging_err : (s.withStaging g).err = s.err := rfl
@[simp] theorem State.withStaging_chain : (s.withStaging g).chain = s.chain := rfl
@[simp] theorem State.withStaging_mblk : (s.withStaging g).mblk = s.mblk := rfl
@[simp] theorem State.withStaging_staging : (s.withStaging g).staging = g := rfl
@[simp] theorem State.withStaging_cipher : (s.withStaging g).cipher = s.cipher := rfl
@[simp] theorem State.withStaging_ctr : (s.withStaging g).ctr = s.ctr := rfl
@[simp] theorem State.withStaging_din : (s.withStaging g).din = s.din := rfl
@[simp] theorem State.withStaging_dout : (s.withStaging g).dout = s.dout := rfl
@[simp] theorem State.withStaging_pending : (s.withStaging g).pending = s.pending := rfl
@[simp] theorem State.withStaging_responses : (s.withStaging g).responses = s.responses := rfl

end

/-! ### `State.withDin` -/

section
variable (s : State) (d : Vector Word 16)

@[simp] theorem State.withDin_err : (s.withDin d).err = s.err := rfl
@[simp] theorem State.withDin_chain : (s.withDin d).chain = s.chain := rfl
@[simp] theorem State.withDin_mblk : (s.withDin d).mblk = s.mblk := rfl
@[simp] theorem State.withDin_staging : (s.withDin d).staging = s.staging := rfl
@[simp] theorem State.withDin_cipher : (s.withDin d).cipher = s.cipher := rfl
@[simp] theorem State.withDin_ctr : (s.withDin d).ctr = s.ctr := rfl
@[simp] theorem State.withDin_din : (s.withDin d).din = d := rfl
@[simp] theorem State.withDin_dout : (s.withDin d).dout = s.dout := rfl
@[simp] theorem State.withDin_pending : (s.withDin d).pending = s.pending := rfl
@[simp] theorem State.withDin_responses : (s.withDin d).responses = s.responses := rfl

end

/-! ### `State.withErr` -/

section
variable (s : State) (e : ErrCode)

@[simp] theorem State.withErr_err : (s.withErr e).err = e.bits := rfl
@[simp] theorem State.withErr_chain : (s.withErr e).chain = s.chain := rfl
@[simp] theorem State.withErr_mblk : (s.withErr e).mblk = s.mblk := rfl
@[simp] theorem State.withErr_staging : (s.withErr e).staging = s.staging := rfl
@[simp] theorem State.withErr_cipher : (s.withErr e).cipher = s.cipher := rfl
@[simp] theorem State.withErr_ctr : (s.withErr e).ctr = s.ctr := rfl
@[simp] theorem State.withErr_din : (s.withErr e).din = s.din := rfl
@[simp] theorem State.withErr_dout : (s.withErr e).dout = s.dout := rfl
@[simp] theorem State.withErr_pending : (s.withErr e).pending = s.pending := rfl
@[simp] theorem State.withErr_responses : (s.withErr e).responses = s.responses := rfl

end

/-! ### `State.withPending` -/

section
variable (s : State) (p : List BusEvent)

@[simp] theorem State.withPending_err : (s.withPending p).err = s.err := rfl
@[simp] theorem State.withPending_chain : (s.withPending p).chain = s.chain := rfl
@[simp] theorem State.withPending_mblk : (s.withPending p).mblk = s.mblk := rfl
@[simp] theorem State.withPending_staging : (s.withPending p).staging = s.staging := rfl
@[simp] theorem State.withPending_cipher : (s.withPending p).cipher = s.cipher := rfl
@[simp] theorem State.withPending_ctr : (s.withPending p).ctr = s.ctr := rfl
@[simp] theorem State.withPending_din : (s.withPending p).din = s.din := rfl
@[simp] theorem State.withPending_dout : (s.withPending p).dout = s.dout := rfl
@[simp] theorem State.withPending_pending : (s.withPending p).pending = p := rfl
@[simp] theorem State.withPending_responses : (s.withPending p).responses = s.responses := rfl

end

/-! ### `State.respond` -/

section
variable (s : State) (r : BusResponse)

@[simp] theorem State.respond_err : (s.respond r).err = s.err := rfl
@[simp] theorem State.respond_chain : (s.respond r).chain = s.chain := rfl
@[simp] theorem State.respond_mblk : (s.respond r).mblk = s.mblk := rfl
@[simp] theorem State.respond_staging : (s.respond r).staging = s.staging := rfl
@[simp] theorem State.respond_cipher : (s.respond r).cipher = s.cipher := rfl
@[simp] theorem State.respond_ctr : (s.respond r).ctr = s.ctr := rfl
@[simp] theorem State.respond_din : (s.respond r).din = s.din := rfl
@[simp] theorem State.respond_dout : (s.respond r).dout = s.dout := rfl
@[simp] theorem State.respond_pending : (s.respond r).pending = s.pending := rfl
@[simp] theorem State.respond_responses : (s.respond r).responses = s.responses ++ [r] := rfl

end

/-! ### `resetBlock` -/

section
variable (s : State)

@[simp] theorem resetBlock_err : (resetBlock s).err = 0#4 := rfl
@[simp] theorem resetBlock_chain : (resetBlock s).chain = iv := rfl
@[simp] theorem resetBlock_mblk : (resetBlock s).mblk = Vector.replicate 16 0#32 := rfl
@[simp] theorem resetBlock_staging : (resetBlock s).staging = Staging.reset := rfl
@[simp] theorem resetBlock_cipher : (resetBlock s).cipher = Cipher.reset := rfl
@[simp] theorem resetBlock_ctr : (resetBlock s).ctr = 0#64 := rfl
@[simp] theorem resetBlock_din : (resetBlock s).din = Vector.replicate 16 0#32 := rfl
@[simp] theorem resetBlock_dout : (resetBlock s).dout = Vector.replicate 16 0#32 := rfl
@[simp] theorem resetBlock_pending : (resetBlock s).pending = s.pending := rfl
@[simp] theorem resetBlock_responses : (resetBlock s).responses = s.responses := rfl

end

end Sys2Proof.Machine
end

