-- ==== Sys2Proof/Laws/Ops.lean ====
section
/-! SUPPORT. What the shared operations and each command can do, said once: if it answers `next t`, then one of these
cases holds. -/

namespace Sys2Proof.Machine

/-! ### Sequencing -/

section
variable {α β : Type}

@[simp] theorem andThen_next (a : α) (f : α → Result β) : andThen (.next a) f = f a := rfl

@[simp] theorem andThen_fault (r : Fault) (f : α → Result β) : andThen (.fault r) f = .fault r := rfl

@[simp] theorem andThen_refused (r : Refusal) (f : α → Result β) : andThen (.refused r) f = .refused r := rfl

/-- A sequence that goes on has gone on at its first part. -/
theorem andThen_eq_next {o : Result α} {f : α → Result β} {b : β} (h : andThen o f = .next b) :
    ∃ a, o = .next a ∧ f a = .next b := by
  cases o with
  | next a => exact ⟨a, rfl, h⟩
  | fault r => cases h
  | refused r => cases h

end

/-! ### How a command ends -/

/-- Completing changes ERR only. -/
@[simp] theorem complete_eq (s : State) : complete s = .next (s.withErr .ok) := rfl

/-- A command error changes ERR only (R202). -/
@[simp] theorem cmdError_eq (c : ErrCode) (s : State) : cmdError c s = .next (s.withErr c) := rfl

@[simp] theorem ErrCode.bits_ok : ErrCode.ok.bits = 0#4 := rfl
@[simp] theorem ErrCode.bits_invalidKeySize : ErrCode.invalidKeySize.bits = 1#4 := rfl
@[simp] theorem ErrCode.bits_invalidNonceSize : ErrCode.invalidNonceSize.bits = 2#4 := rfl
@[simp] theorem ErrCode.bits_invalidRounds : ErrCode.invalidRounds.bits = 3#4 := rfl
@[simp] theorem ErrCode.bits_noCipher : ErrCode.noCipher.bits = 4#4 := rfl
@[simp] theorem ErrCode.bits_badCommand : ErrCode.badCommand.bits = 5#4 := rfl

/-- Every result code is at most 5 (R200). -/
theorem ErrCode.bits_le (c : ErrCode) : c.bits.toNat ≤ 5 := by
  cases c <;> decide

/-! ### The commands -/

theorem execNop_cases {s t : State} (h : execNop s = .next t) : t = s.withErr .ok := by
  cases h
  rfl

theorem execRmdInit_cases {s t : State} (h : execRmdInit s = .next t) : t = { s with chain := iv, err := 0#4 } := by
  cases h
  rfl

theorem execRmdCompress_cases {s t : State} (h : execRmdCompress s = .next t) :
    t = { s with chain := compress s.chain s.mblk, err := 0#4 } := by
  simp only [execRmdCompress, Host.Outcome.next.injEq] at h
  exact h.symm

/-- SALSA_INIT ends in one of its three errors or constructs the cipher. -/
theorem execSalsaInit_cases {klen : BitVec 6} {nlen : BitVec 4} {s t : State} (h : execSalsaInit klen nlen s = .next t) :
    (keyLenOk klen = false ∧ t = s.withErr .invalidKeySize) ∨
    (keyLenOk klen = true ∧ nonceLenOk nlen = false ∧ t = s.withErr .invalidNonceSize) ∨
    (keyLenOk klen = true ∧ nonceLenOk nlen = true ∧ roundsOk (signedRounds s) = false ∧
      t = s.withErr .invalidRounds) ∨
    (keyLenOk klen = true ∧ nonceLenOk nlen = true ∧ roundsOk (signedRounds s) = true ∧
      t = { s with cipher := constructed (klen == 32#6) s.staging, ctr := ctrin s, err := 0#4 }) := by
  unfold execSalsaInit at h
  split_ifs at h <;> simp_all [eq_comm (b := t)]

/-- SALSA_SEEK reports that there is no cipher, or moves the counter. -/
theorem execSalsaSeek_cases {s t : State} (h : execSalsaSeek s = .next t) :
    (s.cipher.cvalid = false ∧ t = s.withErr .noCipher) ∨
    (s.cipher.cvalid = true ∧ t = { s with ctr := ctrin s, err := 0#4 }) := by
  unfold execSalsaSeek at h
  split_ifs at h <;> simp_all [eq_comm (b := t)]

/-- SALSA_XOR reports an error, consumes no window, or processes one. -/
theorem execSalsaXor_cases {len : BitVec 7} {s t : State} (h : execSalsaXor len s = .next t) :
    (64 < len.toNat ∧ t = s.withErr .badCommand) ∨
    (len.toNat ≤ 64 ∧ s.cipher.cvalid = false ∧ t = s.withErr .noCipher) ∨
    (len.toNat = 0 ∧ s.cipher.cvalid = true ∧ t = s.withErr .ok) ∨
    (0 < len.toNat ∧ len.toNat ≤ 64 ∧ s.cipher.cvalid = true ∧
      t = { s with
        dout := xorWindow len.toNat s.din (keystreamWords s.cipher s.ctr), ctr := s.ctr + 1#64, err := 0#4 }) := by
  unfold execSalsaXor at h
  split_ifs at h with h1 h2 h3 <;> simp only [complete_eq, cmdError_eq, Host.Outcome.next.injEq] at h <;> subst h
  · exact .inl ⟨h1, rfl⟩
  · exact .inr (.inl ⟨by omega, by simpa using h2, rfl⟩)
  · exact .inr (.inr (.inl ⟨h3, by simpa using h2, rfl⟩))
  · exact .inr (.inr (.inr ⟨by omega, by omega, by simpa using h2, rfl⟩))

end Sys2Proof.Machine
end

