-- ==== Sys2Proof/Laws/Window.lean ====
section
/-! SUPPORT. The register map (20_memory.md R54, R55): offsets and registers correspond, the targets of permitted accesses,
and what loading and storing a register do. -/

namespace Sys2Proof.Machine

/-- Every register stands at its own offset. -/
@[simp] theorem regAt_offset (r : Reg) : regAt r.offset = some r := by
  cases r <;> (try rename_i i; revert i) <;> decide

/-- Every register's offset is aligned. -/
theorem offset_aligned (r : Reg) : r.offset.toNat % 4 = 0 := by
  cases r <;> (try rename_i i; revert i) <;> decide

/-- An aligned, mapped offset is its register's offset. -/
theorem offset_of_regAt (off : BitVec 9) (r : Reg) (h4 : off.toNat % 4 = 0) (h : regAt off = some r) : off = r.offset := by
  have all : ∀ off : BitVec 9, off.toNat % 4 = 0 → (regAt off).all (fun r => off == r.offset) = true := by
    decide +kernel
  simpa [h] using all off h4

/-- The first two conditions of R55. -/
@[simp] theorem aligned32_eq_true (off : BitVec 9) (width : Nat) :
    aligned32 off width = true ↔ width = 32 ∧ off.toNat % 4 = 0 := by
  simp [aligned32]

/-- A permitted read reads a readable register at its own offset, 32 bits wide. -/
theorem readTarget_eq_some {off : BitVec 9} {width : Nat} {r : Reg} :
    readTarget off width = some r ↔ width = 32 ∧ off = r.offset ∧ r.readable = true := by
  unfold readTarget
  constructor
  · intro h
    split at h
    · rename_i ha
      rw [aligned32_eq_true] at ha
      rw [Option.filter_eq_some_iff] at h
      exact ⟨ha.1, offset_of_regAt off r ha.2 h.1, h.2⟩
    · cases h
  · rintro ⟨rfl, rfl, hr⟩
    simp [offset_aligned, hr]

/-- A permitted write writes a writable register at its own offset, 32 bits wide. -/
theorem writeTarget_eq_some {off : BitVec 9} {width : Nat} {r : Reg} :
    writeTarget off width = some r ↔ width = 32 ∧ off = r.offset ∧ r.writable = true := by
  unfold writeTarget
  constructor
  · intro h
    split at h
    · rename_i ha
      rw [aligned32_eq_true] at ha
      rw [Option.filter_eq_some_iff] at h
      exact ⟨ha.1, offset_of_regAt off r ha.2 h.1, h.2⟩
    · cases h
  · rintro ⟨rfl, rfl, hr⟩
    simp [offset_aligned, hr]

/-- Registers at one offset are one register. -/
theorem offset_injective {r q : Reg} (h : r.offset = q.offset) : r = q := by
  have := regAt_offset r
  rw [h, regAt_offset] at this
  exact (Option.some.inj this).symm

/-- Loading answers exactly for the readable registers. -/
theorem loadReg_isSome (s : State) (r : Reg) : (loadReg s r).isSome = r.readable := by
  cases r <;> rfl

/-- Storing answers exactly for the writable registers but CMD. -/
theorem storeReg_isSome (s : State) (v : Word) (r : Reg) : (storeReg s v r).isSome = (r.writable && r != .cmd) := by
  cases r <;> rfl

/-- A store changes no register but the one stored to: nothing of the cipher, its counter, the output buffer, ERR or the
bus side. -/
theorem storeReg_frame {s t : State} {v : Word} {r : Reg} (h : storeReg s v r = some t) :
    t.cipher = s.cipher ∧ t.ctr = s.ctr ∧ t.dout = s.dout ∧ t.err = s.err ∧ t.pending = s.pending ∧
      t.responses = s.responses := by
  cases r <;> simp only [storeReg, Option.some.injEq, reduceCtorEq] at h <;> subst h <;> simp

@[simp] theorem Chain.get_set_self (c : Chain) (i : Fin 4) (v : Word) : (c.set i v).get i = v := by
  match i with
  | 0 => rfl
  | 1 => rfl
  | 2 => rfl
  | 3 => rfl

theorem Chain.get_set_ne (c : Chain) (i j : Fin 4) (v : Word) (h : j ≠ i) : (c.set i v).get j = c.get j := by
  match i, j with
  | 0, 0 | 1, 1 | 2, 2 | 3, 3 => exact absurd rfl h
  | 0, 1 | 0, 2 | 0, 3 | 1, 0 | 1, 2 | 1, 3 | 2, 0 | 2, 1 | 2, 3 | 3, 0 | 3, 1 | 3, 2 => rfl

/-- A register stored to reads back as written. -/
theorem loadReg_storeReg_self {s t : State} {v : Word} {r : Reg} (h : storeReg s v r = some t) :
    loadReg t r = some v := by
  cases r <;> simp only [storeReg, Option.some.injEq, reduceCtorEq] at h <;> subst h <;> simp [loadReg]

/-- Every other register reads as before. -/
theorem loadReg_storeReg_ne {s t : State} {v : Word} {r q : Reg} (h : storeReg s v r = some t) (hq : q ≠ r) :
    loadReg t q = loadReg s q := by
  cases r <;> simp only [storeReg, Option.some.injEq, reduceCtorEq] at h <;> subst h <;>
    cases q <;>
    simp_all [loadReg, statusWord, statusKey32, ctrLo, ctrHi, Chain.get_set_ne, Fin.ext_iff, eq_comm]

end Sys2Proof.Machine
end

