-- ==== Sys2Proof/Laws/Bus.lean ====
section
/-! SUPPORT. What one access, one event and one step can do, said once (20_memory.md R55, 30_encoding.md R81,
60_exceptions.md R201). -/

namespace Sys2Proof.Machine

/-! ### The registers that no command and no store touches -/

/-- A command leaves the message block, the staging registers, the input buffer and the bus side alone. -/
theorem exec_frame {i : Instr} {s t : State} (h : exec i s = .next t) :
    t.mblk = s.mblk ∧ t.staging = s.staging ∧ t.din = s.din ∧ t.pending = s.pending ∧ t.responses = s.responses := by
  cases i with
  | nop => rw [execNop_cases h]; simp
  | rmdInit => rw [execRmdInit_cases h]; simp
  | rmdCompress => rw [execRmdCompress_cases h]; simp
  | salsaInit klen nlen =>
    rcases execSalsaInit_cases h with ⟨_, rfl⟩ | ⟨_, _, rfl⟩ | ⟨_, _, _, rfl⟩ | ⟨_, _, _, rfl⟩ <;> simp
  | salsaSeek => rcases execSalsaSeek_cases h with ⟨_, rfl⟩ | ⟨_, rfl⟩ <;> simp
  | salsaXor len =>
    rcases execSalsaXor_cases h with ⟨_, rfl⟩ | ⟨_, _, rfl⟩ | ⟨_, _, rfl⟩ | ⟨_, _, _, rfl⟩ <;> simp

/-- Executing a command word runs the command it decodes to, or sets BAD_COMMAND. -/
theorem execute_cases {v : Word} {s t : State} (h : execute v s = .next t) :
    (∃ i, decode v = .ok i ∧ exec i s = .next t) ∨ (∃ e, decode v = .error e ∧ t = s.withErr .badCommand) := by
  unfold execute at h
  split at h
  · exact .inl ⟨_, ‹_›, h⟩
  · simp only [cmdError_eq, Host.Outcome.next.injEq] at h
    exact .inr ⟨_, ‹_›, h.symm⟩

/-! ### Accesses -/

/-- A read of a readable register at its offset answers its value and changes nothing. -/
theorem busRead_offset (s : State) (r : Reg) {v : Word} (h : loadReg s r = some v) :
    busRead r.offset 32 s = .next (.value v, s) := by
  have hr : readTarget r.offset 32 = some r := by
    rw [readTarget_eq_some]
    exact ⟨rfl, rfl, by rw [← loadReg_isSome s, h]; rfl⟩
  simp [busRead, hr, h]

/-- A write of a writable storage register at its offset stores the value. -/
theorem busWrite_offset (s : State) (r : Reg) (v : Word) {t : State} (h : storeReg s v r = some t) :
    busWrite r.offset 32 v s = .next (.ack, t) := by
  have hs := storeReg_isSome s v r
  rw [h] at hs
  have hw : writeTarget r.offset 32 = some r := by
    rw [writeTarget_eq_some]
    exact ⟨rfl, rfl, by simp_all⟩
  cases r <;> simp_all [busWrite]

/-- A 32-bit write of CMD executes its word. -/
theorem busWrite_cmd (s : State) (v : Word) :
    busWrite 0x000#9 32 v s = andThen (execute v s) fun t => .next (.ack, t) := by
  have hw : writeTarget 0x000#9 32 = some .cmd := by decide
  simp [busWrite, hw]

/-- A read answers the register's value or a bus error, and changes nothing (R56, R201). -/
theorem busRead_cases (off : BitVec 9) (width : Nat) (s : State) :
    (readTarget off width = none ∧ busRead off width s = .next (.busError off, s)) ∨
    (∃ r v, readTarget off width = some r ∧ loadReg s r = some v ∧ busRead off width s = .next (.value v, s)) := by
  unfold busRead
  cases hr : readTarget off width with
  | none => exact .inl ⟨rfl, rfl⟩
  | some r =>
    have hs := loadReg_isSome s r
    rw [(readTarget_eq_some.mp hr).2.2] at hs
    obtain ⟨v, hv⟩ := Option.isSome_iff_exists.mp hs
    exact .inr ⟨r, v, rfl, hv, by simp [hv]⟩

/-- A write gives a bus error, executes a command word, or stores a register. -/
theorem busWrite_cases (off : BitVec 9) (width : Nat) (v : Word) (s : State) :
    (writeTarget off width = none ∧ busWrite off width v s = .next (.busError off, s)) ∨
    (writeTarget off width = some .cmd ∧
      busWrite off width v s = andThen (execute v s) fun t => .next (.ack, t)) ∨
    (∃ r t, writeTarget off width = some r ∧ r ≠ .cmd ∧ storeReg s v r = some t ∧
      busWrite off width v s = .next (.ack, t)) := by
  cases hw : writeTarget off width with
  | none => exact .inl ⟨rfl, by simp [busWrite, hw, busErrorOn]⟩
  | some r =>
    by_cases hc : r = .cmd
    · subst hc
      exact .inr (.inl ⟨rfl, by simp [busWrite, hw]⟩)
    · have hs := storeReg_isSome s v r
      obtain ⟨hw32, hoff, hwr⟩ := writeTarget_eq_some.mp hw
      have : (storeReg s v r).isSome = true := by simp [hs, hwr, hc]
      obtain ⟨t, ht⟩ := Option.isSome_iff_exists.mp this
      refine .inr (.inr ⟨r, t, rfl, hc, ht, ?_⟩)
      rw [hw32, hoff]
      exact busWrite_offset s r v ht

/-- What one access can do: nothing but answer, execute a command word, or store a register. -/
theorem busAccess_cases {a : BusAccess} {s t : State} {r : BusResponse} (h : busAccess a s = .next (r, t)) :
    t = s ∨
    (∃ v, a = .write 0x000#9 32 v ∧ r = .ack ∧ execute v s = .next t) ∨
    (∃ q v, a = .write q.offset 32 v ∧ q ≠ .cmd ∧ r = .ack ∧ storeReg s v q = some t) := by
  cases a with
  | read off width =>
    rcases busRead_cases off width s with ⟨_, h'⟩ | ⟨_, _, _, _, h'⟩ <;>
    · simp only [busAccess, h', Host.Outcome.next.injEq, Prod.mk.injEq] at h
      exact .inl h.2.symm
  | write off width v =>
    rcases busWrite_cases off width v s with ⟨_, h'⟩ | ⟨hw, h'⟩ | ⟨q, t', hw, hq, ht, h'⟩ <;>
      simp only [busAccess, h'] at h
    · simp only [Host.Outcome.next.injEq, Prod.mk.injEq] at h
      exact .inl h.2.symm
    · obtain ⟨t', he, ht⟩ := andThen_eq_next h
      simp only [Host.Outcome.next.injEq, Prod.mk.injEq] at ht
      obtain ⟨rfl, rfl, _⟩ := writeTarget_eq_some.mp hw
      exact .inr (.inl ⟨v, rfl, ht.1.symm, ht.2 ▸ he⟩)
    · simp only [Host.Outcome.next.injEq, Prod.mk.injEq] at h
      obtain ⟨rfl, rfl, _⟩ := writeTarget_eq_some.mp hw
      exact .inr (.inr ⟨q, v, rfl, hq, h.1.symm, h.2 ▸ ht⟩)

/-! ### Events and steps -/

/-- What one step can do: idle, reset, or serve one access. -/
theorem step_cases {s t : State} (h : step s = .next t) :
    (s.pending = [] ∧ t = s) ∨
    (∃ rest, s.pending = .reset :: rest ∧ t = resetBlock (s.withPending rest)) ∨
    (∃ a rest r u, s.pending = .access a :: rest ∧ busAccess a (s.withPending rest) = .next (r, u) ∧
      t = u.respond r) := by
  unfold step serveNext at h
  split at h
  · cases h
    exact .inl ⟨‹_›, rfl⟩
  · rename_i e rest hp
    cases e with
    | reset =>
      simp only [serveEvent, Host.Outcome.next.injEq] at h
      exact .inr (.inl ⟨rest, hp, h.symm⟩)
    | access a =>
      obtain ⟨⟨r, u⟩, hb, ht⟩ := andThen_eq_next (o := busAccess a (s.withPending rest)) h
      simp only [Host.Outcome.next.injEq] at ht
      exact .inr (.inr ⟨a, rest, r, u, hp, hb, ht.symm⟩)

end Sys2Proof.Machine
end

