-- ==== Sys2Proof/Laws/Decode.lean ====
section
/-! SUPPORT. What the decoder answers (30_encoding.md R81, R83): the row's mask and match, and the fields. -/

namespace Sys2Proof

/-- The decoder with the masks and match values of R83 written out. -/
theorem decode_eq (v : Word) :
    decode v =
      if v &&& 0xFFFFFFFF#32 = 0x00000000#32 then .ok .nop
      else if v &&& 0xFFFFFFFF#32 = 0x00000001#32 then .ok .rmdInit
      else if v &&& 0xFFFFFFFF#32 = 0x00000002#32 then .ok .rmdCompress
      else if v &&& 0xF0C0FFFF#32 = 0x00000010#32 then .ok (.salsaInit (klenField v) (nlenField v))
      else if v &&& 0xFFFFFFFF#32 = 0x00000011#32 then .ok .salsaSeek
      else if v &&& 0xFFFF80FF#32 = 0x00000012#32 then
        if 64 < (lenField v).toNat then .error .lenOutOfRange else .ok (.salsaXor (lenField v))
      else .error (noRowReason v) := rfl

/-- Every row fixes the opcode: a word that meets a row's mask and match has the match value's low byte. -/
theorem opcode_of_row {v : Word} {i : Instr} (h : v &&& rowMask i = rowMatch i) :
    v &&& 0xFF#32 = rowMatch i &&& 0xFF#32 := by
  have hm : rowMask i &&& 0xFF#32 = 0xFF#32 := by cases i <;> simp [rowMask]
  rw [← h, BitVec.and_assoc, hm]

/-- A word that decodes meets the mask and match of the command's row. -/
theorem decode_row {v : Word} {i : Instr} (h : decode v = .ok i) : v &&& rowMask i = rowMatch i := by
  unfold decode at h
  split_ifs at h <;> cases h <;> assumption

/-- A word that decodes gives a well-formed command. -/
theorem decode_wellFormed {v : Word} {i : Instr} (h : decode v = .ok i) : i.WellFormed := by
  unfold decode at h
  split_ifs at h <;> cases h <;> (simp [Instr.WellFormed, Instr.wellFormed]; try omega)

/-- The only fields that a decoded command carries are those of its word. -/
theorem decode_fields {v : Word} {i : Instr} (h : decode v = .ok i) :
    i = .nop ∨ i = .rmdInit ∨ i = .rmdCompress ∨ i = .salsaInit (klenField v) (nlenField v) ∨ i = .salsaSeek ∨
      i = .salsaXor (lenField v) := by
  unfold decode at h
  split_ifs at h <;> cases h <;> simp

end Sys2Proof
end

