-- ==== Sys2Proof/Laws/HostProc.lean ====
section
/-! SUPPORT. Running host programs (30_encoding.md R86, R87): what each line answers, and how programs compose. -/

namespace Sys2Proof.Machine

/-! ### One line -/

/-- `RD` of a readable register answers its value and changes nothing. -/
theorem busAccess_rd (s : State) (r : Reg) {v : Word} (h : loadReg s r = some v) :
    busAccess (rd r) s = .next (.value v, s) := busRead_offset s r h

/-- `WR` of a storage register stores the value. -/
theorem busAccess_wr (s : State) (r : Reg) (v : Word) {t : State} (h : storeReg s v r = some t) :
    busAccess (wr r v) s = .next (.ack, t) := busWrite_offset s r v h

/-- `CMD` of a command whose word decodes to it runs the command. -/
theorem busAccess_cmd (s : State) (i : Instr) (h : decode (encode i) = .ok i) {t : State} (hx : exec i s = .next t) :
    busAccess (cmd i) s = .next (.ack, t) := by
  have he : execute (encode i) s = .next t := by simp [execute, h, hx]
  have := busWrite_cmd s (encode i)
  rw [he] at this
  exact this

/-! ### Programs -/

@[simp] theorem runProgram_nil (s : State) : runProgram [] s = .next ([], s) := rfl

theorem runProgram_cons (a : BusAccess) (p : List BusAccess) (s : State) :
    runProgram (a :: p) s =
      andThen (busAccess a s) fun x => andThen (runProgram p x.2) fun y => .next (x.1 :: y.1, y.2) := rfl

/-- A program whose first line answers `r` and leaves `t`. -/
theorem runProgram_cons_next {a : BusAccess} {p : List BusAccess} {s t u : State} {r : BusResponse}
    {rs : List BusResponse} (h : busAccess a s = .next (r, t)) (hp : runProgram p t = .next (rs, u)) :
    runProgram (a :: p) s = .next (r :: rs, u) := by
  simp [runProgram_cons, h, hp]

/-- One program after another. -/
theorem runProgram_append_next {p q : List BusAccess} {s t u : State} {rs rs' : List BusResponse}
    (hp : runProgram p s = .next (rs, t)) (hq : runProgram q t = .next (rs', u)) :
    runProgram (p ++ q) s = .next (rs ++ rs', u) := by
  induction p generalizing s rs with
  | nil =>
    simp only [runProgram_nil, Host.Outcome.next.injEq, Prod.mk.injEq] at hp
    obtain ⟨rfl, rfl⟩ := hp
    exact hq
  | cons a p ih =>
    rw [runProgram_cons] at hp
    obtain ⟨x, hx, hp⟩ := andThen_eq_next hp
    obtain ⟨y, hy, hp⟩ := andThen_eq_next hp
    simp only [Host.Outcome.next.injEq, Prod.mk.injEq] at hp
    obtain ⟨rfl, rfl⟩ := hp
    exact runProgram_cons_next hx (ih hy)

/-! ### The values read -/

@[simp] theorem valuesOf_nil : valuesOf [] = [] := rfl

@[simp] theorem valuesOf_cons_value (w : Word) (rs : List BusResponse) :
    valuesOf (.value w :: rs) = w :: valuesOf rs := rfl

@[simp] theorem valuesOf_cons_ack (rs : List BusResponse) : valuesOf (.ack :: rs) = valuesOf rs := rfl

@[simp] theorem valuesOf_append (rs rs' : List BusResponse) : valuesOf (rs ++ rs') = valuesOf rs ++ valuesOf rs' :=
  List.filterMap_append

/-- `bytesLe32` gives four bytes, so `n` words give `4 n` bytes. -/
theorem length_bytesOf (ws : List Word) : (bytesOf ws).length = 4 * ws.length := by
  induction ws with
  | nil => rfl
  | cons w ws ih =>
    simp only [bytesOf, List.flatMap_cons, List.length_append, List.length_cons] at ih ⊢
    rw [ih]
    simp only [bytesLe32, List.length_cons, List.length_nil]
    omega

end Sys2Proof.Machine
end

