-- ==== Sys2Proof/Laws/PerInstr.lean ====
section
/-! SUPPORT. What holds of every command as syntax, one lemma per command (30_encoding.md R80, R82, R83). -/

namespace Sys2Proof.Laws.EncodingMeetsRow

/-- R83: a command's word has the bits its row fixes. R82: the fields of the word are the command's operands. -/
def Statement (i : Instr) : Prop :=
  encode i &&& rowMask i = rowMatch i ∧
    match i with
    | .salsaInit klen nlen => klenField (encode i) = klen ∧ nlenField (encode i) = nlen
    | .salsaXor len => lenField (encode i) = len
    | .nop | .rmdInit | .rmdCompress | .salsaSeek => True

theorem nop : Statement .nop := ⟨by decide, trivial⟩

theorem rmdInit : Statement .rmdInit := ⟨by decide, trivial⟩

theorem rmdCompress : Statement .rmdCompress := ⟨by decide, trivial⟩

theorem salsaInit (klen : BitVec 6) (nlen : BitVec 4) : Statement (.salsaInit klen nlen) := by
  unfold Statement
  revert klen nlen
  decide +kernel

theorem salsaSeek : Statement .salsaSeek := ⟨by decide, trivial⟩

theorem salsaXor (len : BitVec 7) : Statement (.salsaXor len) := by
  unfold Statement
  revert len
  decide +kernel

end Sys2Proof.Laws.EncodingMeetsRow
end

