-- ==== Sys2Proof/Tests/Slice0.lean ====
section
/-! SUPPORT. The model's own tests, on values from 95_test_vectors.md (V1, V2 and V5 are the source's own vectors, the T
rows are derived from the rules), and for every statement with hypotheses a witness that meets them. -/

namespace Sys2Proof.Tests

open Sys2Proof Sys2Proof.Machine

/-! ### Helpers -/

/-- Whether an outcome is a next value that passes a check. -/
def nextIs {α : Type} (o : Result α) (p : α → Bool) : Bool :=
  match o with
  | .next a => p a
  | .fault _ => false
  | .refused _ => false

theorem exists_of_nextIs {α : Type} {o : Result α} {p : α → Bool} (h : nextIs o p = true) :
    ∃ a, o = .next a ∧ p a = true := by
  cases o with
  | next a => exact ⟨a, rfl, h⟩
  | fault r => exact absurd h (by simp [nextIs])
  | refused r => exact absurd h (by simp [nextIs])

/-- KEY = 0..31 (95_test_vectors.md, Conventions). -/
def key031 : Vector Word 8 :=
  #v[0x03020100#32, 0x07060504#32, 0x0B0A0908#32, 0x0F0E0D0C#32, 0x13121110#32, 0x17161514#32, 0x1B1A1918#32,
    0x1F1E1D1C#32]

/-- Reset, with KEY = 0..31 and a round count staged. -/
def staged (rounds : Word) : State :=
  { State.reset with staging := { Staging.reset with key := key031, rounds := rounds } }

/-- Reset, with a cipher constructed from `staged` and a counter. -/
def withCipher (rounds : Word) (key32 : Bool) (ctr : Word64) : State :=
  { staged rounds with cipher := constructed key32 (staged rounds).staging, ctr := ctr }

/-- A state to which these accesses are delivered. -/
def delivering (s : State) (p : List BusAccess) : State := s.withPending (p.map .access)

/-- The block of the empty message (V1). -/
def emptyBlock : Vector Word 16 := (Vector.replicate 16 0x00000000#32).set 0 0x00000080#32

/-! ### WellFormed: the check refuses what it should -/

theorem test_wellFormed_refuses_len_65 : (Instr.salsaXor 65#7).wellFormed = false := by decide

theorem test_wellFormed_refuses_len_127 : (Instr.salsaXor 127#7).wellFormed = false := by decide

theorem test_wellFormed_takes_len_64 : (Instr.salsaXor 64#7).WellFormed := by decide

/-! ### Decoding: words written out from R80 and R83 (T6), the host's numbering, illegal words (T7) -/

theorem test_decode_nop : decode 0b0000_0000_0000_0000_0000_0000_0000_0000#32 = .ok .nop := by decide

theorem test_decode_rmdInit : decode 0b0000_0000_0000_0000_0000_0000_0000_0001#32 = .ok .rmdInit := by decide

theorem test_decode_rmdCompress : decode 0b0000_0000_0000_0000_0000_0000_0000_0010#32 = .ok .rmdCompress := by decide

theorem test_decode_salsaInit : decode 0b0000_1100_0010_0000_0000_0000_0001_0000#32 = .ok (.salsaInit 32#6 12#4) := by
  decide

theorem test_decode_salsaSeek : decode 0b0000_0000_0000_0000_0000_0000_0001_0001#32 = .ok .salsaSeek := by decide

theorem test_decode_salsaXor : decode 0b0000_0000_0000_0000_0010_0100_0001_0010#32 = .ok (.salsaXor 36#7) := by decide

theorem test_encode_words :
    [Instr.nop, .rmdInit, .rmdCompress, .salsaInit 32#6 8#4, .salsaInit 16#6 8#4, .salsaInit 63#6 15#4, .salsaSeek,
      .salsaXor 3#7, .salsaXor 64#7].map encode =
    [0x00000000#32, 0x00000001#32, 0x00000002#32, 0x08200010#32, 0x08100010#32, 0x0F3F0010#32, 0x00000011#32,
      0x00000312#32, 0x00004012#32] := by decide

theorem test_illegal_words :
    [0x00000003#32, 0x0000000F#32, 0x00000013#32, 0x00000020#32, 0x000000FF#32, 0x80000001#32, 0x00000102#32,
      0x00010001#32, 0x18200010#32, 0x08600010#32, 0x08208010#32, 0x08204010#32, 0x00000111#32, 0x00008012#32,
      0x00004112#32, 0x00007F12#32, 0x08204012#32, 0x00000100#32].all
      (fun v => nextIs (execute v (withCipher 20#32 true 0#64)) fun t => t.err == 5#4) = true := by decide +kernel

/-- T8. -/
theorem test_bad_command_first : nextIs (execute 0x00004112#32 State.reset) (fun t => t.err == 5#4) = true := by decide

theorem test_decodeTableWord : decodeTableWord 32 0x08100010 = some (.salsaInit 16#6 8#4) := by decide

theorem test_withFetchWord_runs_first :
    nextIs (step (State.reset.withFetchWord 32 0x00000012)) (fun t => t.err == 4#4 && t.responses == [.ack]) = true := by
  decide

theorem test_row_of_salsaXor : encode (.salsaXor 36#7) &&& rowMask (.salsaXor 36#7) = 0x00000012#32 :=
  (Laws.EncodingMeetsRow.salsaXor 36#7).1

/-! ### Control -/

/-- T1. -/
theorem test_nop_clears_err :
    nextIs (execute 0x00000000#32 { State.reset with err := 3#4 }) (fun t => statusWord t == 0x00000000#32) = true := by
  decide

/-! ### Hash unit -/

/-- T9, second row. -/
theorem test_boolean_functions :
    [fnF, fnG, fnH, fnI].map (fun f => f 0x0F0F0F0F#32 0x00FF00FF#32 0x3C3C3C3C#32) =
      [0x33CC33CC#32, 0x303F303F#32, 0xC333C333#32, 0x0CCF0CCF#32] := by decide

/-- T10: the first step of each line. -/
theorem test_first_steps :
    leftStep emptyBlock 0 (Line.start iv) = ⟨0x10325476#32, 0x52341674#32, 0xEFCDAB89#32, 0x98BADCFE#32⟩ ∧
    rightStep emptyBlock 0 (Line.start iv) = ⟨0x10325476#32, 0x70376F40#32, 0xEFCDAB89#32, 0x98BADCFE#32⟩ := by
  decide +kernel

/-- T14. -/
theorem test_rmdInit :
    nextIs (execute 0x00000001#32
        { State.reset with chain := ⟨0x1362F2CD#32, 0x3EDC50A1#32, 0x180F61CB#32, 0x468BB3F6#32⟩, err := 5#4 })
      (fun t => t.chain == ⟨0x67452301#32, 0xEFCDAB89#32, 0x98BADCFE#32, 0x10325476#32⟩ && t.err == 0#4) = true := by
  decide

/-- V1, the source's vector for the empty message. -/
theorem test_rmdCompress_empty :
    nextIs (execute 0x00000002#32 { State.reset with mblk := emptyBlock })
      (fun t => t.chain == ⟨0x1362F2CD#32, 0x3EDC50A1#32, 0x180F61CB#32, 0x468BB3F6#32⟩) = true := by decide +kernel

/-- T13, third row: every input bit set, from a chaining state no hash reaches. -/
theorem test_rmdCompress_ones :
    nextIs (execute 0x00000002#32
        { State.reset with
          chain := ⟨0xFFFFFFFF#32, 0xFFFFFFFF#32, 0xFFFFFFFF#32, 0xFFFFFFFF#32⟩
          mblk := Vector.replicate 16 0xFFFFFFFF#32 })
      (fun t => t.chain == ⟨0x362C54CC#32, 0x58AB6333#32, 0x0396CBF3#32, 0x555E5AC7#32⟩) = true := by decide +kernel

/-- V2, the source's vector for "abc", through HASH. -/
theorem test_hash_abc :
    nextIs (hash [0x61#8, 0x62#8, 0x63#8] State.reset)
      (fun x => x.1 == [0xC1#8, 0x4A#8, 0x12#8, 0x19#8, 0x9C#8, 0x66#8, 0xE4#8, 0xBA#8, 0x84#8, 0x63#8, 0x6B#8, 0x0F#8,
        0x69#8, 0x14#8, 0x4C#8, 0x77#8]) = true := by decide +kernel

/-- T17: padded lengths and the length field's first two bytes. -/
theorem test_padding :
    [0, 1, 3, 55, 56, 63, 64, 119, 120].map (fun n =>
      let p := padMessage (List.replicate n 0x61#8)
      (p.length, p[p.length - 8]?, p[p.length - 7]?)) =
    [(64, some 0x00#8, some 0x00#8), (64, some 0x08#8, some 0x00#8), (64, some 0x18#8, some 0x00#8),
      (64, some 0xB8#8, some 0x01#8), (128, some 0xC0#8, some 0x01#8), (128, some 0xF8#8, some 0x01#8),
      (128, some 0x00#8, some 0x02#8), (128, some 0xB8#8, some 0x03#8), (192, some 0xC0#8, some 0x03#8)] := by
  decide +kernel

/-! ### Cipher unit -/

/-- T27. -/
theorem test_arx_wraps :
    (arx 4 0 12 7 (((Vector.replicate 16 0#32).set 0 0xFFFFFFFF#32).set 12 0x00000002#32 |>.set 4 0x12345678#32))[4] =
      0x123456F8#32 := by decide

/-- T21, last row. -/
theorem test_quarterRound :
    let x := quarterRound ⟨0, 1, 2, 3⟩ ((((Vector.replicate 16 0#32).set 0 0xE7E8C006#32).set 1 0xC4F9417D#32).set 2
      0x6479B4B2#32 |>.set 3 0x68C67137#32)
    [x[0], x[1], x[2], x[3]] = [0xE876D72B#32, 0x9361DFD5#32, 0xF1460244#32, 0x948541A3#32] := by decide +kernel

/-- T26: one double-round. -/
theorem test_doubleRound :
    doubleRound (inputState (withCipher 20#32 true 0#64).cipher 0#64) =
      #v[0x0771E1CD#32, 0xED30B9FD#32, 0x8A1831C4#32, 0x0F4965DE#32, 0x7C6AF835#32, 0xEE79E3F0#32, 0xEF31463A#32,
        0x5CF83AD8#32, 0xF296582F#32, 0xC9CCC909#32, 0x38DD00F9#32, 0xFE006FC4#32, 0x229E8258#32, 0x598EF8F7#32,
        0x01616BA5#32, 0x0322A460#32] := by decide +kernel

/-- T31 and T22: command word, ROUNDS, and the STATUS left. -/
theorem test_salsaInit_status :
    [(0x08200010#32, 20#32, 0x00000300#32), (0x08100010#32, 20#32, 0x00000100#32),
      (0x08180010#32, 20#32, 0x00000010#32), (0x08000010#32, 20#32, 0x00000010#32), (0x08210010#32, 20#32, 0x00000010#32),
      (0x0C200010#32, 20#32, 0x00000020#32), (0x00200010#32, 20#32, 0x00000020#32), (0x08200010#32, 7#32, 0x00000030#32),
      (0x0F3F0010#32, 7#32, 0x00000010#32), (0x07100010#32, 7#32, 0x00000020#32), (0x00000010#32, 0#32, 0x00000010#32),
      (0x08200010#32, 0#32, 0x00000030#32), (0x08200010#32, 1#32, 0x00000030#32),
      (0x08200010#32, 0xFFFFFFFE#32, 0x00000030#32), (0x08200010#32, 0x80000000#32, 0x00000030#32),
      (0x08200010#32, 2#32, 0x00000300#32), (0x08200010#32, 0x7FFFFFFE#32, 0x00000300#32),
      (0x08200010#32, 0x7FFFFFFF#32, 0x00000030#32)].all
      (fun x => nextIs (execute x.1 (staged x.2.1)) fun t => statusWord t == x.2.2) = true := by decide +kernel

/-- T24: the input state a 16-byte key gives. -/
theorem test_salsaInit_16_byte_key :
    nextIs (execute 0x08100010#32 (staged 20#32)) (fun t => inputState t.cipher t.ctr ==
      #v[0x61707865#32, 0x03020100#32, 0x07060504#32, 0x0B0A0908#32, 0x0F0E0D0C#32, 0x3120646E#32, 0x00000000#32,
        0x00000000#32, 0x00000000#32, 0x00000000#32, 0x79622D36#32, 0x03020100#32, 0x07060504#32, 0x0B0A0908#32,
        0x0F0E0D0C#32, 0x6B206574#32]) = true := by decide +kernel

/-- T33: without a cipher. -/
theorem test_salsaSeek_no_cipher :
    nextIs (execute 0x00000011#32 { State.reset with staging := { Staging.reset with ctrinLo := 1#32 } })
      (fun t => t.err == 4#4 && t.ctr == 0#64) = true := by decide

/-- T33: with one, the high word from CTRIN_HI. -/
theorem test_salsaSeek_sets_ctr :
    nextIs (execute 0x00000011#32
        { withCipher 20#32 true 2#64 with
          staging := { Staging.reset with ctrinLo := 0xFFFFFFFF#32, ctrinHi := 0x00000001#32 } })
      (fun t => t.err == 0#4 && t.ctr == 0x00000001FFFFFFFF#64) = true := by decide

/-- V5, the source's keystream vector. -/
theorem test_salsaXor_keystream :
    nextIs (execute 0x00004012#32 (withCipher 20#32 true 0#64)) (fun t => t.dout ==
      #v[0x67F780B5#32, 0xF7E5761C#32, 0x7CF81A44#32, 0x516B6D14#32, 0x8BDC1039#32, 0x1BEF4641#32, 0x12CF1132#32,
        0x494B4AAF#32, 0xB374C8E5#32, 0xE7854FEF#32, 0x9F53EDD7#32, 0xEB73BAFE#32, 0xA7CCE073#32, 0x6D30BD4F#32,
        0xC716A78A#32, 0xAF893E78#32] && t.ctr == 1#64) = true := by decide +kernel

/-- T35, last row: a window of three bytes. T29, last row: the counter's wrap, and both of its words in the input state. -/
theorem test_salsaXor_corners :
    nextIs (execute 0x00000312#32
        { withCipher 20#32 true 0#64 with din := Vector.replicate 16 0xFF636261#32 })
      (fun t => t.dout == (Vector.replicate 16 0#32).set 0 0x0094E2D4#32) = true ∧
    nextIs (execute 0x00004012#32 (withCipher 20#32 true 0xFFFFFFFFFFFFFFFF#64))
      (fun t => t.ctr == 0#64 && t.err == 0#4 && t.dout[0] == 0xD13E818A#32) = true := by decide +kernel

/-- T30, counter 0 (rests on TAU, which no source vector confirms: log entry 11). -/
theorem test_keystream_16_byte_key :
    (keystreamWords (withCipher 20#32 false 0#64).cipher 0#64)[0] = 0xF7C3D52D#32 := by decide +kernel

/-! ### The window -/

/-- T5. -/
theorem test_bus_errors :
    ∀ a ∈ [BusAccess.read 0x000#9 32, .write 0x004#9 32 1#32, .read 0x008#9 32, .read 0x00C#9 32, .read 0x020#9 32,
      .read 0x03C#9 32, .read 0x0B4#9 32, .read 0x0C8#9 32, .read 0x0FC#9 32, .read 0x180#9 32, .read 0x1FC#9 32,
      .read 0x012#9 32, .read 0x010#9 8, .write 0x040#9 16 1#32, .write 0x000#9 16 0x0002#32, .write 0x0C0#9 32 1#32,
      .write 0x0C4#9 32 1#32, .write 0x140#9 32 1#32, .write 0x17C#9 32 1#32],
      permitted a = false ∧
        nextIs (busAccess a State.reset) (fun x => match x.1 with
          | .busError off => decide (off.toNat < 0x200)
          | .value _ => false
          | .ack => false) = true := by decide

/-- T4. -/
theorem test_read_back :
    nextIs (runProgram [wr .rounds 0xFFFFFFFF#32, rd .rounds, wr (.key 7) 0xDEADBEEF#32, rd (.key 7), wr (.h 2) 0#32,
        rd (.h 2), rd .status] { State.reset with err := 3#4 })
      (fun x => valuesOf x.1 == [0xFFFFFFFF#32, 0xDEADBEEF#32, 0#32, 0x00000030#32]) = true := by decide

/-- T3, some rows. -/
theorem test_reset_values :
    nextIs (runProgram [rd .status, rd (.h 0), rd (.h 3), rd .rounds, rd .ctrinHi, rd .ctrLo, rd (.dout 15)] State.reset)
      (fun x => valuesOf x.1 == [0#32, 0x67452301#32, 0x10325476#32, 0x00000014#32, 0#32, 0#32, 0#32]) = true := by
  decide

/-- R86: the assembler's refusals, and the word it emits though the block rejects it. -/
theorem test_assembler :
    asmSalsaInit 64 8 = none ∧ asmSalsaInit 32 16 = none ∧ asmSalsaXor 128 = none ∧
    asmSalsaXor 127 = some (.write 0x000#9 32 0x00007F12#32) ∧
    asmSalsaInit 24 8 = some (.write 0x000#9 32 0x08180010#32) := by decide

/-! ### Witnesses: the hypotheses of the statements can be met -/

theorem test_witness_StepRunsDecodedCommand :
    (delivering State.reset [.write 0x000#9 32 0x00004012#32]).pending =
        .access (.write 0x000#9 32 0x00004012#32) :: [] ∧
      decode 0x00004012#32 = .ok (.salsaXor 64#7) ∧ (Instr.salsaXor 64#7).WellFormed := by decide

theorem test_witness_DecodeOfEncode :
    (Instr.salsaXor 0#7).WellFormed ∧ (Instr.salsaXor 64#7).WellFormed ∧ (Instr.salsaInit 63#6 15#4).WellFormed ∧
      Instr.nop.WellFormed := by decide

theorem test_witness_EncodeOfDecode :
    decode 0x0F3F0010#32 = .ok (.salsaInit 63#6 15#4) ∧ decode 0x00004012#32 = .ok (.salsaXor 64#7) := by decide

theorem test_witness_RowsPairwiseDisjoint :
    0x00000112#32 &&& rowMask (.salsaXor 0#7) = rowMatch (.salsaXor 0#7) ∧
      0x00000112#32 &&& rowMask (.salsaXor 5#7) = rowMatch (.salsaXor 5#7) ∧
      0x00007F12#32 &&& 0xFFFF80FF#32 = 0x00000012#32 ∧ decode 0x00007F12#32 = .error .lenOutOfRange := by decide

/-- One word for each clause of R84, at the boundary values of its ranges. -/
theorem test_witness_IllegalEncodings :
    [0x03#32, 0x0F#32, 0x13#32, 0xFF#32].map (fun v => (v.extractLsb' 0 8).toNat) = [0x03, 0x0F, 0x13, 0xFF] ∧
    (0x00008000#32).getLsbD 15 = true ∧ (0x00400010#32).getLsbD 22 = true ∧ (0x00800010#32).getLsbD 23 = true ∧
    ((0x10000010#32).extractLsb' 28 4).toNat = 1 ∧
    ((0x00000111#32).extractLsb' 0 8).toNat = 0x11 ∧ ((0x00000111#32).extractLsb' 8 7).toNat = 1 ∧
    ((0x08204010#32).extractLsb' 0 8).toNat = 0x10 ∧ ((0x08204010#32).extractLsb' 8 7).toNat = 64 ∧
    ((0x00004112#32).extractLsb' 0 8).toNat = 0x12 ∧ ((0x00004112#32).extractLsb' 8 7).toNat = 65 := by decide

theorem test_witness_NopOnlyClearsErr : (0x00000100#32).extractLsb' 0 8 = 0#8 ∧ 0x00000100#32 ≠ 0#32 := by decide

/-- A line's registers before each step. -/
def lineTrace (f : Fin 64 → Line → Line) (start : Line) : Nat → Line
  | 0 => start
  | n + 1 => if h : n < 64 then f ⟨n, h⟩ (lineTrace f start n) else lineTrace f start n

theorem test_witness_CompressMergesIndependentLines :
    ∃ l r : Nat → Line, l 0 = ⟨iv.h0, iv.h1, iv.h2, iv.h3⟩ ∧ r 0 = ⟨iv.h0, iv.h1, iv.h2, iv.h3⟩ ∧
      (∀ j : Fin 64, l (j.val + 1) =
        ⟨(l j).d,
         rol32 ((l j).a + leftFn (roundOf j) (l j).b (l j).c (l j).d + emptyBlock[rl j] + kl[roundOf j]) (sl j),
         (l j).b, (l j).c⟩) ∧
      (∀ j : Fin 64, r (j.val + 1) =
        ⟨(r j).d,
         rol32 ((r j).a + rightFn (roundOf j) (r j).b (r j).c (r j).d + emptyBlock[rr j] + kr[roundOf j]) (sr j),
         (r j).b, (r j).c⟩) := by
  refine ⟨lineTrace (leftStep emptyBlock) (Line.start iv), lineTrace (rightStep emptyBlock) (Line.start iv), rfl, rfl,
    ?_, ?_⟩ <;>
  · intro j
    rw [lineTrace, dif_pos j.isLt]
    rfl

theorem test_witness_BooleanFunctionsBitwise : (0 < 32) ∧ (31 < 32) := by decide

theorem test_witness_RolRotatesLeft : (1 ≤ 1 ∧ 1 ≤ 31 ∧ 0 < 32) ∧ (1 ≤ 31 ∧ 31 ≤ 31 ∧ 31 < 32) := by decide

theorem test_witness_QuarterRoundWritesFourWords :
    ([0, 4, 8, 12] : List (Fin 16)).Nodup ∧ (1 : Fin 16) ∉ ([0, 4, 8, 12] : List (Fin 16)) := by decide

theorem test_witness_QuarterRoundOrderIrrelevant :
    columnQuads.reverse.Perm [⟨0, 4, 8, 12⟩, ⟨5, 9, 13, 1⟩, ⟨10, 14, 2, 6⟩, ⟨15, 3, 7, 11⟩] ∧
      rowQuads.reverse.Perm [⟨0, 1, 2, 3⟩, ⟨5, 6, 7, 4⟩, ⟨10, 11, 8, 9⟩, ⟨15, 12, 13, 14⟩] :=
  ⟨List.reverse_perm _, List.reverse_perm _⟩

/-- The working array before each double-round. -/
def roundTrace (x : Block) : Nat → Block
  | 0 => x
  | n + 1 => rowRound (columnRound (roundTrace x n))

theorem test_witness_KeystreamBlockRule :
    ∀ p ∈ [(2#32, 1), (20#32, 10)],
      (withCipher p.1 true 0#64).cipher.cr.toInt = 2 * (p.2 : Nat) ∧
      ∃ x : Nat → Block, x 0 = inputState (withCipher p.1 true 0#64).cipher 0#64 ∧
        ∀ n < p.2, x (n + 1) = rowRound (columnRound (x n)) := by
  intro p hp
  refine ⟨?_, roundTrace _, rfl, fun _ _ => rfl⟩
  revert p
  decide

/-- A state and fields for each clause: both key lengths, each failing check, the smallest and greatest round count. -/
theorem test_witness_SalsaInit :
    0x0F3F0010#32 &&& 0xF0C0FFFF#32 = 0x00000010#32 ∧
    ((24#6).toNat ≠ 16 ∧ (24#6).toNat ≠ 32) ∧
    (¬ ((16#6).toNat ≠ 16 ∧ (16#6).toNat ≠ 32) ∧ (7#4).toNat ≠ 8) ∧
    (¬ ((32#6).toNat ≠ 16 ∧ (32#6).toNat ≠ 32) ∧ ¬ (8#4).toNat ≠ 8 ∧
      ((staged 0#32).staging.rounds.toInt ≤ 0 ∨ (staged 0#32).staging.rounds.toInt % 2 ≠ 0) ∧
      ((staged 7#32).staging.rounds.toInt ≤ 0 ∨ (staged 7#32).staging.rounds.toInt % 2 ≠ 0) ∧
      ¬ ((staged 2#32).staging.rounds.toInt ≤ 0 ∨ (staged 2#32).staging.rounds.toInt % 2 ≠ 0) ∧
      ¬ ((staged 0x7FFFFFFE#32).staging.rounds.toInt ≤ 0 ∨ (staged 0x7FFFFFFE#32).staging.rounds.toInt % 2 ≠ 0)) := by
  decide

theorem test_witness_SalsaSeek : (withCipher 20#32 true 0#64).cipher.cvalid = true ∧ State.reset.cipher.cvalid = false := by
  decide

theorem test_witness_SalsaXor :
    (0x00004012#32 &&& 0xFFFF80FF#32 = 0x00000012#32 ∧ ((0x00004012#32).extractLsb' 8 7).toNat ≤ 64) ∧
    (0x00004112#32 &&& 0xFFFF80FF#32 = 0x00000012#32 ∧ 64 < ((0x00004112#32).extractLsb' 8 7).toNat) ∧
    ((0#7).toNat ≤ 64 ∧ State.reset.cipher.cvalid = false) ∧
    ((withCipher 20#32 true 0#64).cipher.cvalid = true ∧ (0#7).toNat = 0) ∧
    ((withCipher 20#32 true 0#64).cipher.cvalid = true ∧ 1 ≤ (1#7).toNat ∧ (64#7).toNat ≤ 64) := by decide

theorem test_witness_SalsaXorIsSelfInverse :
    (withCipher 2#32 true 0#64).cipher.cvalid = true ∧ (64#7).toNat ≤ 64 ∧
      ∃ t, exec (.salsaXor 64#7) (withCipher 2#32 true 0#64) = .next t := ⟨rfl, by decide, _, rfl⟩

theorem test_witness_CommandFrames :
    (∃ t, exec .rmdCompress State.reset = .next t) ∧ (∃ t, exec (.salsaXor 1#7) (withCipher 2#32 true 0#64) = .next t) :=
  ⟨⟨_, rfl⟩, ⟨_, rfl⟩⟩

theorem test_witness_CommandErrorsArePrecise :
    ∃ t, execute 0x00000003#32 State.reset = .next t ∧ t.err ≠ 0#4 := ⟨_, rfl, by decide⟩

theorem test_witness_ErrorCodesInPriorityOrder :
    (∀ i, decode 0x00004112#32 ≠ .ok i) ∧ (∃ i, decode 0x0F3F0010#32 = .ok i) := by
  refine ⟨fun i h => ?_, _, rfl⟩
  have hd : decode 0x00004112#32 = .error .lenOutOfRange := by decide
  rw [hd] at h
  cases h

theorem test_witness_IdempotentCommands :
    (∃ t, exec .rmdInit State.reset = .next t) ∧ (∃ t, exec .salsaSeek (withCipher 20#32 true 0#64) = .next t) ∧
      (∃ t, exec .nop State.reset = .next t) := ⟨⟨_, rfl⟩, ⟨_, rfl⟩, ⟨_, rfl⟩⟩

theorem test_witness_CipherAndCounterLaw :
    ∃ t, step (delivering (withCipher 2#32 true 0#64) [cmd (.salsaXor 1#7)]) = .next t ∧ t.ctr = 1#64 := by
  obtain ⟨t, h, hc⟩ := exists_of_nextIs
    (o := step (delivering (withCipher 2#32 true 0#64) [cmd (.salsaXor 1#7)])) (p := fun t => t.ctr == 1#64)
    (by decide +kernel)
  exact ⟨t, h, by simpa using hc⟩

theorem test_witness_OnlyCommandsWriteErr :
    (delivering State.reset [.write 0x000#9 16 2#32]).pending = .access (.write 0x000#9 16 2#32) :: [] ∧
      (∀ v, BusAccess.write 0x000#9 16 2#32 ≠ .write 0x000#9 32 v) ∧
      ∃ t, step (delivering State.reset [.write 0x000#9 16 2#32]) = .next t :=
  ⟨rfl, fun v h => by simp at h, _, rfl⟩

theorem test_witness_UnpermittedAccess :
    permitted (.read 0x000#9 32) = false ∧ permitted (.write 0x17C#9 32 0#32) = false ∧
      permitted (.read 0x010#9 8) = false ∧
      (delivering State.reset [.read 0x000#9 32]).pending = .access (.read 0x000#9 32) :: [] := by decide

theorem test_witness_WriteReadsBackAlone :
    (permitted (.write 0x010#9 32 1#32) = true ∧ (0x010#9 : BitVec 9) ≠ 0x000#9 ∧ (0x014#9 : BitVec 9) ≠ 0x010#9) ∧
      permitted (.write 0x13C#9 32 1#32) = true := by decide

/-- A platform's base address. -/
def base512 : Config := ⟨512, by decide⟩

theorem test_witness_WindowAtBase :
    (base512.base ≤ 512 ∧ 512 ≤ base512.base + 0x1FF) ∧ (base512.base ≤ 1023 ∧ 1023 ≤ base512.base + 0x1FF) ∧
      511 < base512.base ∧ base512.base + 0x1FF < 1024 := by decide

theorem test_witness_EveryAccessCompletes :
    (delivering State.reset [.read 0x013#9 8]).pending = .access (.read 0x013#9 8) :: [] := by decide

theorem test_witness_StepsPerformAccessesInOrder :
    (delivering State.reset [cmd .rmdInit, rd (.h 0)]).pending = [cmd .rmdInit, rd (.h 0)].map .access := rfl

theorem test_witness_IdleBlock : State.reset.pending = [] := rfl

theorem test_witness_Reset :
    ((withCipher 20#32 true 9#64).withPending [.reset]).pending = .reset :: [] ∧
      ∃ t, step ((withCipher 20#32 true 9#64).withPending [.reset]) = .next t := ⟨rfl, _, rfl⟩

theorem test_inv_withCipher : Inv (withCipher 2#32 true 0#64) where
  constructed _ := ⟨by decide, by decide, rfl, fun h => by cases h⟩
  unconstructed h := by cases h
  err_le := by decide

theorem test_witness_StepKeepsBlockInvariant :
    Inv (delivering (withCipher 2#32 true 0#64) [cmd .salsaSeek]) ∧
      ∃ t, step (delivering (withCipher 2#32 true 0#64) [cmd .salsaSeek]) = .next t :=
  ⟨⟨test_inv_withCipher.constructed, (fun h => by cases h), test_inv_withCipher.err_le⟩, _, rfl⟩

theorem test_witness_CounterHalvesAgree :
    ∀ a ∈ [rd .status, wr (.mblk 0) 1#32, .write 0x000#9 16 2#32], a.startsCommand = false := by decide

theorem test_witness_ReadingHost :
    Interleaves [wr (.mblk 0) 1#32, cmd .rmdCompress] [rd (.h 0)] [wr (.mblk 0) 1#32, rd (.h 0), cmd .rmdCompress] ∧
      ∀ y ∈ [rd (.h 0)], ∃ off width, y = .read off width :=
  ⟨.left (.right (.left .nil)), fun _ hy => ⟨_, _, List.mem_singleton.mp hy⟩⟩

/-- Each outcome of CONSTRUCT is reached, in the order of its checks. -/
theorem test_witness_ConstructOutcomes :
    ∀ x ∈ [(32, 8, (20 : Int), 0#4), (16, 8, 2, 0#4), (100, 8, 20, 1#4), (0, 0, 0, 1#4), (16, 100, 7, 2#4),
      (32, 8, 7, 3#4), (32, 8, -2, 3#4), (32, 8, -(2 ^ 31), 3#4), (32, 8, 2 ^ 31 - 1, 3#4)],
      (-(2 ^ 31) ≤ x.2.2.1 ∧ x.2.2.1 ≤ 2 ^ 31 - 1) ∧
      nextIs (construct (List.replicate x.1 1#8) (List.replicate x.2.1 2#8) 0#64 x.2.2.1 State.reset)
        (fun y => y.1 == some x.2.2.2) = true := by decide +kernel

theorem test_witness_Seek : (withCipher 20#32 true 9#64).cipher.cvalid = true ∧ State.reset.cipher.cvalid = false := by
  decide

/-- T35, as PROCESS of "abc". -/
theorem test_witness_Process :
    (withCipher 20#32 true 0#64).cipher.cvalid = true ∧
    ∃ t, process [0x61#8, 0x62#8, 0x63#8] (withCipher 20#32 true 0#64) = .next ([0xD4#8, 0xE2#8, 0x94#8], t) := by
  refine ⟨rfl, ?_⟩
  obtain ⟨⟨out, t⟩, h, hc⟩ := exists_of_nextIs
    (o := process [0x61#8, 0x62#8, 0x63#8] (withCipher 20#32 true 0#64))
    (p := fun x => x.1 == [0xD4#8, 0xE2#8, 0x94#8]) (by decide +kernel)
  have ho : out = [0xD4#8, 0xE2#8, 0x94#8] := by simpa using hc
  exact ⟨t, by rw [h, ho]⟩

theorem test_witness_ProcessRoundTrip :
    ∃ out t, process [0x61#8] (withCipher 2#32 true 0#64) = .next (out, t) ∧
      (withCipher 2#32 true 0#64).cipher.cvalid = true := by
  obtain ⟨⟨out, t⟩, h, _⟩ := exists_of_nextIs
    (o := process [0x61#8] (withCipher 2#32 true 0#64)) (p := fun x => x.1.length == 1) (by decide +kernel)
  exact ⟨out, t, h, rfl⟩

theorem test_witness_ProcessContinuity :
    (withCipher 2#32 true 0#64).cipher.cvalid = true ∧ (List.replicate 64 0x61#8).length % 64 = 0 := by decide

theorem test_witness_SeekThenProcessIsPure :
    ∃ t0 t1, construct (List.replicate 16 1#8) (List.replicate 8 2#8) 0#64 2 State.reset = .next (some 0#4, t0) ∧
      construct (List.replicate 16 1#8) (List.replicate 8 2#8) 5#64 2 State.reset = .next (some 0#4, t1) := by
  obtain ⟨⟨e0, t0⟩, h0, c0⟩ := exists_of_nextIs
    (o := construct (List.replicate 16 1#8) (List.replicate 8 2#8) 0#64 2 State.reset) (p := fun x => x.1 == some 0#4)
    (by decide +kernel)
  obtain ⟨⟨e1, t1⟩, h1, c1⟩ := exists_of_nextIs
    (o := construct (List.replicate 16 1#8) (List.replicate 8 2#8) 5#64 2 State.reset) (p := fun x => x.1 == some 0#4)
    (by decide +kernel)
  have g0 : e0 = some 0#4 := by simpa using c0
  have g1 : e1 = some 0#4 := by simpa using c1
  exact ⟨t0, t1, by rw [h0, g0], by rw [h1, g1]⟩

theorem test_witness_HostCallsRefusedByName :
    ((2 : Int) ^ 31 - 1 < 2 ^ 31) ∧ ((-(2 ^ 31) - 1 : Int) < -(2 ^ 31)) ∧ HostCall.hash [] ≠ .fastDecrypt ∧
      (∀ key nonce counter rounds, HostCall.hash [] = .construct key nonce counter rounds →
        -(2 ^ 31) ≤ rounds ∧ rounds ≤ 2 ^ 31 - 1) :=
  ⟨by decide, by decide, by decide, fun _ _ _ _ h => by cases h⟩

theorem test_witness_LittleEndianPacking :
    bytesLe32 0x04030201#32 = [0x01#8, 0x02#8, 0x03#8, 0x04#8] ∧ le32 0x01#8 0x02#8 0x03#8 0x04#8 = 0x04030201#32 := by
  decide

theorem test_witness_WordAtPacksFourBytes :
    ([] : List Byte).length = 4 * 0 ∧ [1#8, 2#8, 3#8, 4#8].length = 4 * 1 ∧
      wordAt ([1#8, 2#8, 3#8, 4#8] ++ [5#8, 6#8, 7#8, 8#8] ++ [9#8]) 1 = 0x08070605#32 := by decide

/-- 0, 1, 64, 65 and 128 bytes: the windows' lengths. -/
theorem test_witness_WindowsCutInOrder :
    [0, 1, 64, 65, 128].map (fun n => (windows (List.replicate n 0x61#8)).map List.length) =
      [[], [1], [64], [64, 1], [64, 64]] := by decide +kernel

end Sys2Proof.Tests
end

section
/-! PROOFS. The packing primitives of 00_scope.md R10: the value of a packed word, and the bytes of words and of 64-bit
values. -/

namespace Sys2Proof.Machine

/-- The value of a word is read off its byte lanes, lane `k` weighing `2 ^ (8 k)`. -/
theorem toNat_eq_sum_byteOf (w : Word) :
    w.toNat = (byteOf w 0).toNat + 2 ^ 8 * (byteOf w 1).toNat + 2 ^ 16 * (byteOf w 2).toNat +
      2 ^ 24 * (byteOf w 3).toNat := by
  simp only [byteOf, BitVec.extractLsb'_toNat, Nat.shiftRight_eq_div_pow]
  omega

/-- The byte lanes of a word cut out of a 64-bit value at bit `m` are the value's own bytes from bit `m` on. -/
theorem byteOf_extractLsb' (v : Word64) (m : Nat) {k : Nat} (hk : k < 4) :
    byteOf (v.extractLsb' m 32) k = v.extractLsb' (m + 8 * k) 8 := by
  ext i hi
  have hlane : 8 * k + i < 32 := by omega
  simp [byteOf, hlane, Nat.add_assoc]

theorem toNat_le32 (b0 b1 b2 b3 : Byte) :
    (le32 b0 b1 b2 b3).toNat = b0.toNat + 2 ^ 8 * b1.toNat + 2 ^ 16 * b2.toNat + 2 ^ 24 * b3.toNat := by
  obtain ⟨h0, h1, h2, h3⟩ := byteOf_le32 b0 b1 b2 b3
  rw [toNat_eq_sum_byteOf, h0, h1, h2, h3]

theorem bytesLe32_le32 (b0 b1 b2 b3 : Byte) : bytesLe32 (le32 b0 b1 b2 b3) = [b0, b1, b2, b3] := by
  obtain ⟨h0, h1, h2, h3⟩ := byteOf_le32 b0 b1 b2 b3
  rw [bytesLe32, h0, h1, h2, h3]

theorem le32_of_bytesLe32_eq {b0 b1 b2 b3 : Byte} {w : Word} (h : bytesLe32 w = [b0, b1, b2, b3]) :
    le32 b0 b1 b2 b3 = w := by
  simp only [bytesLe32, List.cons.injEq, and_true] at h
  obtain ⟨rfl, rfl, rfl, rfl⟩ := h
  exact le32_byteOf w

/-- The bytes of the low half and then of the high half are the eight bytes by bit position. -/
theorem bytesLe64_eq_map_range (v : Word64) :
    bytesLe64 v = (List.range 8).map fun i => v.extractLsb' (8 * i) 8 := by
  simp [bytesLe64, bytesLe32, byteOf_extractLsb', List.range_succ]

/-- Settles O54: by value through the byte lanes of the packed word, by bits through the two inverse laws of the lanes. -/
theorem littleEndianPacking : Obligations.LittleEndianPacking :=
  ⟨fun b0 b1 b2 b3 => ⟨toNat_le32 b0 b1 b2 b3, bytesLe32_le32 b0 b1 b2 b3⟩, fun _ => rfl,
    fun _ _ _ _ _ => le32_of_bytesLe32_eq, bytesLe64_eq_map_range⟩

end Sys2Proof.Machine
end

section
/-! PROOFS. The STATUS register (10_state.md R29): what each bit of its value is, and that it cannot be written. -/

namespace Sys2Proof.Machine

/-- R29 bit by bit: ERR in bits 7:4, CVALID in bit 8, the CKEY32 mirror in bit 9, 0 elsewhere. -/
theorem getLsbD_statusWord (s : State) (i : Nat) :
    (statusWord s).getLsbD i =
      (decide (4 ≤ i) && s.err.getLsbD (i - 4) || decide (i = 8) && s.cipher.cvalid ||
        decide (i = 9) && statusKey32 s) := by
  rcases Nat.lt_or_ge i 10 with hi | hi
  · interval_cases i <;> simp [statusWord]
  · have herr : s.err.getLsbD (i - 4) = false := BitVec.getLsbD_of_ge _ _ (by omega)
    have h8 : i - 8 ≠ 0 := by omega
    have h9 : i - 9 ≠ 0 := by omega
    simp [statusWord, BitVec.getLsbD_ofBool, herr, h8, h9, show i ≠ 8 by omega, show i ≠ 9 by omega]

theorem statusWord_low_reserved (s : State) : (statusWord s).extractLsb' 0 4 = 0#4 := by
  ext i hi
  have h4 : ¬ 4 ≤ i := by omega
  simp [getLsbD_statusWord, h4, show i ≠ 8 by omega, show i ≠ 9 by omega]

theorem statusErr_statusWord (s : State) : statusErr (statusWord s) = s.err := by
  ext i hi
  simp [statusErr, getLsbD_statusWord, BitVec.getLsbD_eq_getElem hi, show 4 + i ≠ 8 by omega,
    show 4 + i ≠ 9 by omega]

theorem statusWord_cvalid (s : State) : (statusWord s).getLsbD 8 = s.cipher.cvalid := by
  rw [getLsbD_statusWord]
  simp

theorem statusWord_key32 (s : State) : (statusWord s).getLsbD 9 = statusKey32 s := by
  rw [getLsbD_statusWord]
  simp

theorem statusWord_high_reserved (s : State) : (statusWord s).extractLsb' 10 22 = 0#22 := by
  ext i hi
  have herr : s.err.getLsbD (10 + i - 4) = false := BitVec.getLsbD_of_ge _ _ (by omega)
  simp [getLsbD_statusWord, herr, show 10 + i ≠ 8 by omega, show 10 + i ≠ 9 by omega]

/-- R55, R201: a write to a register's offset that the access column does not allow is a bus error, at every width. -/
theorem busWrite_offset_of_not_writable (s : State) (r : Reg) (width : Nat) (v : Word) (h : r.writable = false) :
    busWrite r.offset width v s = .next (.busError r.offset, s) := by
  have hw : writeTarget r.offset width = none := by
    refine Option.eq_none_iff_forall_ne_some.mpr fun q hq => ?_
    obtain ⟨-, hoff, hq⟩ := writeTarget_eq_some.mp hq
    rw [← offset_injective hoff, h] at hq
    cases hq
  simp [busWrite, hw, busErrorOn]

/-- Settles O33: the read answers `statusWord`, whose fields are read off its bits; STATUS is not writable. -/
theorem statusFields : Obligations.StatusFields := fun s =>
  ⟨⟨statusWord s, busAccess_rd s .status rfl, statusWord_low_reserved s, statusErr_statusWord s, statusWord_cvalid s,
    statusWord_key32 s, statusWord_high_reserved s⟩, fun v => busWrite_offset_of_not_writable s .status 32 v rfl⟩

end Sys2Proof.Machine
end

section
/-! PROOFS. The illegal encodings (30_encoding.md R84): a row of R83 read off the fields of the word, the words that decode,
and what executing any other word does. -/

namespace Sys2Proof

/-! ### A word is its fields -/

/-- The bits of no field (R80) are all 0: `v[15]`, `v[23:22]` and `v[31:28]`. -/
def ReservedClear (v : Word) : Prop :=
  v.getLsbD 15 = false ∧ v.getLsbD 22 = false ∧ v.getLsbD 23 = false ∧ v.extractLsb' 28 4 = 0#4

/-- R80 leaves no bit of a word out: two words with the same fields and the same reserved bits are equal. -/
theorem word_eq_iff_fields (v w : Word) :
    v = w ↔ opField v = opField w ∧ lenField v = lenField w ∧ klenField v = klenField w ∧ nlenField v = nlenField w ∧
      v.getLsbD 15 = w.getLsbD 15 ∧ v.getLsbD 22 = w.getLsbD 22 ∧ v.getLsbD 23 = w.getLsbD 23 ∧
      v.extractLsb' 28 4 = w.extractLsb' 28 4 := by
  refine ⟨fun h => by simp [h], ?_⟩
  rintro ⟨hop, hlen, hklen, hnlen, h15, h22, h23, htop⟩
  have bit_of_field {lo n i : Nat} (h : v.extractLsb' lo n = w.extractLsb' lo n) (hlo : lo ≤ i) (hi : i < lo + n) :
      v.getLsbD i = w.getLsbD i := by
    have hbit := congrArg (·.getLsbD (i - lo)) h
    simpa [show i - lo < n by omega, show lo + (i - lo) = i by omega] using hbit
  refine BitVec.eq_of_getLsbD_eq fun i hi => ?_
  obtain hi' | ⟨hlo, hi'⟩ | rfl | ⟨hlo, hi'⟩ | rfl | rfl | ⟨hlo, hi'⟩ | hlo :
      i < 8 ∨ (8 ≤ i ∧ i < 15) ∨ i = 15 ∨ (16 ≤ i ∧ i < 22) ∨ i = 22 ∨ i = 23 ∨ (24 ≤ i ∧ i < 28) ∨ 28 ≤ i := by
    omega
  · exact bit_of_field hop (Nat.zero_le i) (by omega)
  · exact bit_of_field hlen hlo hi'
  · exact h15
  · exact bit_of_field hklen hlo hi'
  · exact h22
  · exact h23
  · exact bit_of_field hnlen hlo hi'
  · exact bit_of_field htop hlo hi

/-! ### The rows of R83 by fields -/

/-- The fields that the command does not use (R82) are 0. -/
def UnusedFieldsZero (v : Word) : Instr → Prop
  | .salsaInit _ _ => lenField v = 0#7
  | .salsaXor _ => klenField v = 0#6 ∧ nlenField v = 0#4
  | .nop | .rmdInit | .rmdCompress | .salsaSeek => lenField v = 0#7 ∧ klenField v = 0#6 ∧ nlenField v = 0#4

/-- A word meets a row's mask and match when it has the row's opcode and every bit outside the used fields is 0. -/
theorem meets_row_iff (v : Word) (i : Instr) :
    v &&& rowMask i = rowMatch i ↔ opField v = opField (rowMatch i) ∧ ReservedClear v ∧ UnusedFieldsZero v i := by
  rw [word_eq_iff_fields]
  have and_ones8 (x : BitVec 8) : x &&& 255#8 = x := BitVec.and_allOnes
  have and_ones7 (x : BitVec 7) : x &&& 127#7 = x := BitVec.and_allOnes
  have and_ones6 (x : BitVec 6) : x &&& 63#6 = x := BitVec.and_allOnes
  have and_ones4 (x : BitVec 4) : x &&& 15#4 = x := BitVec.and_allOnes
  cases i <;>
    simp [opField, lenField, klenField, nlenField, rowMask, rowMatch, ReservedClear, UnusedFieldsZero,
      BitVec.extractLsb'_and, and_ones8, and_ones7, and_ones6, and_ones4] <;> tauto

/-- A word that decodes to no command meets no row, except SALSA_XOR's with `LEN` above 64. -/
theorem lenField_gt_of_decode_error {v : Word} {e : DecodeReject} (h : decode v = .error e) {i : Instr}
    (hrow : v &&& rowMask i = rowMatch i) : (∃ l, i = .salsaXor l) ∧ 64 < (lenField v).toNat := by
  rw [decode_eq] at h
  split_ifs at h with hnop hinit hcompress hsalsaInit hseek hxor hlen
  all_goals
    cases i with
    | nop => exact absurd hrow hnop
    | rmdInit => exact absurd hrow hinit
    | rmdCompress => exact absurd hrow hcompress
    | salsaInit => exact absurd hrow hsalsaInit
    | salsaSeek => exact absurd hrow hseek
    -- Its row was met with `LEN` above 64, or it was not met.
    | salsaXor l => exact ⟨⟨l, rfl⟩, by simp_all [rowMask, rowMatch]⟩

/-- A word decodes when it meets some row, with `LEN` at most 64 if the row is SALSA_XOR's. -/
theorem exists_decode_iff_meets_row (v : Word) :
    (∃ i, decode v = .ok i) ↔
      ∃ i, v &&& rowMask i = rowMatch i ∧ ∀ l, i = .salsaXor l → (lenField v).toNat ≤ 64 := by
  constructor
  · rintro ⟨i, h⟩
    refine ⟨i, decode_row h, ?_⟩
    rintro l rfl
    have hl : l = lenField v := by simpa using decode_fields h
    simpa [hl, Instr.WellFormed, Instr.wellFormed] using decode_wellFormed h
  · rintro ⟨i, hrow, hlen⟩
    cases hd : decode v with
    | ok j => exact ⟨j, rfl⟩
    | error e =>
      obtain ⟨⟨l, rfl⟩, hgt⟩ := lenField_gt_of_decode_error hd hrow
      exact absurd (hlen l rfl) (Nat.not_le.mpr hgt)

/-! ### Legal and illegal words by the values of their fields (R84) -/

/-- The field values of the words that R84 does not list, by opcode: the commands without fields, SALSA_INIT and
SALSA_XOR. -/
def LegalFields (v : Word) : Prop :=
  ((opField v = 0x00#8 ∨ opField v = 0x01#8 ∨ opField v = 0x02#8 ∨ opField v = 0x11#8) ∧
    lenField v = 0#7 ∧ klenField v = 0#6 ∧ nlenField v = 0#4) ∨
  (opField v = 0x10#8 ∧ lenField v = 0#7) ∨
  (opField v = 0x12#8 ∧ (klenField v = 0#6 ∧ nlenField v = 0#4) ∧ (lenField v).toNat ≤ 64)

/-- R81, R84: a word decodes when its reserved bits are clear and its field values are legal. -/
theorem exists_decode_iff (v : Word) : (∃ i, decode v = .ok i) ↔ ReservedClear v ∧ LegalFields v := by
  simp only [exists_decode_iff_meets_row, meets_row_iff]
  constructor
  · rintro ⟨i, ⟨hop, hres, hunused⟩, hlen⟩
    refine ⟨hres, ?_⟩
    cases i with
    | nop => exact .inl ⟨.inl hop, hunused⟩
    | rmdInit => exact .inl ⟨.inr (.inl hop), hunused⟩
    | rmdCompress => exact .inl ⟨.inr (.inr (.inl hop)), hunused⟩
    | salsaSeek => exact .inl ⟨.inr (.inr (.inr hop)), hunused⟩
    | salsaInit klen nlen => exact .inr (.inl ⟨hop, hunused⟩)
    | salsaXor len => exact .inr (.inr ⟨hop, hunused, hlen len rfl⟩)
  · rintro ⟨hres, ⟨hop | hop | hop | hop, hunused⟩ | ⟨hop, hunused⟩ | ⟨hop, hunused, hlen⟩⟩
    · exact ⟨.nop, ⟨hop, hres, hunused⟩, nofun⟩
    · exact ⟨.rmdInit, ⟨hop, hres, hunused⟩, nofun⟩
    · exact ⟨.rmdCompress, ⟨hop, hres, hunused⟩, nofun⟩
    · exact ⟨.salsaSeek, ⟨hop, hres, hunused⟩, nofun⟩
    · exact ⟨.salsaInit (klenField v) (nlenField v), ⟨hop, hres, hunused⟩, nofun⟩
    · exact ⟨.salsaXor (lenField v), ⟨hop, hres, hunused⟩, fun _ _ => hlen⟩

/-- R84's list as the obligation spells it. -/
def IllegalEncoding (v : Word) : Prop :=
  let op := (opField v).toNat
  let len := (lenField v).toNat
  let klen := (klenField v).toNat
  let nlen := (nlenField v).toNat
  (0x03 ≤ op ∧ op ≤ 0x0F) ∨ 0x13 ≤ op ∨
  v.getLsbD 15 = true ∨ v.getLsbD 22 = true ∨ v.getLsbD 23 = true ∨ (v.extractLsb' 28 4).toNat ≠ 0 ∨
  ((op = 0x00 ∨ op = 0x01 ∨ op = 0x02 ∨ op = 0x11) ∧ (len ≠ 0 ∨ klen ≠ 0 ∨ nlen ≠ 0)) ∨
  (op = 0x10 ∧ len ≠ 0) ∨
  (op = 0x12 ∧ (klen ≠ 0 ∨ nlen ≠ 0 ∨ 65 ≤ len))

/-- R84's list leaves out exactly the words with clear reserved bits and legal field values. -/
theorem illegalEncoding_iff (v : Word) : IllegalEncoding v ↔ ¬ (ReservedClear v ∧ LegalFields v) := by
  by_cases hres : ReservedClear v
  · obtain ⟨h15, h22, h23, htop⟩ := id hres
    simp only [IllegalEncoding, LegalFields, hres, h15, h22, h23, htop, ← BitVec.toNat_inj, BitVec.toNat_ofNat,
      true_and, Bool.false_eq_true, false_or]
    omega
  · have hset : IllegalEncoding v := by
      simp only [ReservedClear, ← BitVec.toNat_inj, BitVec.toNat_ofNat, not_and_or, Bool.not_eq_false] at hres
      exact .inr (.inr (by tauto))
    simp [hset, hres]

theorem illegalEncoding_iff_decode_ne_ok (v : Word) : IllegalEncoding v ↔ ∀ i, decode v ≠ .ok i := by
  rw [illegalEncoding_iff, ← exists_decode_iff, not_exists]

end Sys2Proof

namespace Sys2Proof.Machine

/-- R81: a word that decodes to no command sets ERR to BAD_COMMAND and changes nothing else. -/
theorem execute_of_decode_ne_ok {v : Word} (h : ∀ i, decode v ≠ .ok i) (s : State) :
    execute v s = .next (s.withErr .badCommand) := by
  cases hd : decode v with
  | ok i => exact absurd hd (h i)
  | error e => rw [execute, hd]; rfl

/-- Settles O6: R84's list is the complement of the words that meet a row of R83, read field by field, and what no row takes
ends as BAD_COMMAND. -/
theorem illegalEncodingsSetBadCommand : Obligations.IllegalEncodingsSetBadCommand := fun v =>
  ⟨illegalEncoding_iff_decode_ne_ok v,
    fun hv s => execute_of_decode_ne_ok ((illegalEncoding_iff_decode_ne_ok v).mp hv) s⟩

end Sys2Proof.Machine
end

section
/-! PROOFS. NOP (40_control.md R100): what it does, the only row with its opcode, and the words that share its opcode only. -/

namespace Sys2Proof

/-- NOP's row is the only one with OP = 0. -/
theorem eq_nop_of_opField_rowMatch {i : Instr} (h : opField (rowMatch i) = 0x00#8) : i = .nop := by
  cases i with
  | nop => rfl
  | rmdInit | rmdCompress | salsaInit | salsaSeek | salsaXor => exact absurd h (by simp [opField, rowMatch])

/-- NOP's row leaves no bit free. -/
theorem meets_nop_row_iff (v : Word) : v &&& rowMask .nop = rowMatch .nop ↔ v = 0x00000000#32 := by
  have hmask : v &&& rowMask .nop = v := BitVec.and_allOnes
  rw [hmask, rowMatch]

/-- R100, R84: the only command word with OP = 0 is the word 0. -/
theorem eq_zero_of_decode_of_opField_zero {v : Word} {i : Instr} (h : decode v = .ok i) (hop : opField v = 0x00#8) :
    v = 0x00000000#32 := by
  have hrow := decode_row h
  obtain ⟨hopcode, -, -⟩ := (meets_row_iff v i).mp hrow
  obtain rfl : i = .nop := eq_nop_of_opField_rowMatch (hopcode.symm.trans hop)
  exact (meets_nop_row_iff v).mp hrow

theorem decode_zero : decode 0x00000000#32 = .ok .nop := by
  rw [decode, if_pos ((meets_nop_row_iff _).mpr rfl)]

end Sys2Proof

namespace Sys2Proof.Machine

/-- R100: NOP is a completion with nothing before it. -/
theorem exec_nop (s : State) : exec .nop s = .next (s.withErr .ok) := rfl

/-- Settles O7: the word 0 meets NOP's row; NOP only completes; and a word with OP = 0 that decoded would meet NOP's row,
which takes the word 0 alone. -/
theorem nopOnlyClearsErr : Obligations.NopOnlyClearsErr :=
  ⟨decode_zero, exec_nop, fun _ s hop hv =>
    execute_of_decode_ne_ok (fun _ h => hv (eq_zero_of_decode_of_opField_zero h hop)) s⟩

end Sys2Proof.Machine
end

section
/-! PROOFS. The boolean functions and the tables of the hash unit (41_ripemd128.md R111 to R117): the functions bit by bit,
the tables entry by entry, and each round's selections as permutations of the message words. -/

namespace Sys2Proof.Machine

/-! ### The boolean functions -/

section
variable (x y z : Word) (b : Nat)

theorem getLsbD_fnF : (fnF x y z).getLsbD b = (x.getLsbD b ^^ y.getLsbD b ^^ z.getLsbD b) := by
  rw [fnF, BitVec.getLsbD_xor, BitVec.getLsbD_xor]

variable {b} (hb : b < 32)
include hb

/-- `G` selects by `x` (R111). -/
theorem getLsbD_fnG : (fnG x y z).getLsbD b = if x.getLsbD b then y.getLsbD b else z.getLsbD b := by
  simp only [fnG, BitVec.getLsbD_or, BitVec.getLsbD_and, BitVec.getLsbD_not]
  cases x.getLsbD b <;> simp [hb]

theorem getLsbD_fnH : (fnH x y z).getLsbD b = ((x.getLsbD b || !y.getLsbD b) ^^ z.getLsbD b) := by
  simp [fnH, hb]

/-- `I` selects by `z` (R111). -/
theorem getLsbD_fnI : (fnI x y z).getLsbD b = if z.getLsbD b then x.getLsbD b else y.getLsbD b := by
  simp only [fnI, BitVec.getLsbD_or, BitVec.getLsbD_and, BitVec.getLsbD_not]
  cases z.getLsbD b <;> simp [hb]

end

/-- Settles O11: the schedules name `F`, `G`, `H`, `I` and their mirror by definition; the bits are each function's own. -/
theorem booleanFunctionsBitwise : Obligations.BooleanFunctionsBitwise := fun x y z b hb =>
  ⟨getLsbD_fnF x y z b, getLsbD_fnG x y z hb, getLsbD_fnH x y z hb, getLsbD_fnI x y z hb, rfl, rfl, rfl, rfl⟩

/-! ### The tables -/

/-- A step is its round and its place in the round. -/
theorem step_eq_iff (j : Fin 64) (q : Fin 4) (p : Fin 16) :
    j.val = 16 * q.val + p.val ↔ roundOf j = q ∧ placeOf j = p := by
  simp only [roundOf, placeOf, Fin.ext_iff]
  omega

/-- A table with a row per round, no entry twice in a row, has each of the 16 values at exactly one step of each round. -/
theorem existsUnique_step_of_rows_injective (rows : Vector (Vector (Fin 16) 16) 4)
    (hrows : ∀ q : Fin 4, Function.Injective fun p : Fin 16 => rows[q][p]) (q : Fin 4) (w : Fin 16) :
    ∃! j : Fin 64, roundOf j = q ∧ rows[roundOf j][placeOf j] = w := by
  obtain ⟨p, hp, hunique⟩ := (Finite.injective_iff_bijective.mp (hrows q)).existsUnique w
  obtain ⟨j, hj⟩ : ∃ j : Fin 64, j.val = 16 * q.val + p.val := ⟨⟨16 * q.val + p.val, by omega⟩, rfl⟩
  obtain ⟨rfl, rfl⟩ := (step_eq_iff j q p).mp hj
  refine ⟨j, ⟨rfl, hp⟩, ?_⟩
  rintro k ⟨hround, hk⟩
  have hplace : placeOf k = placeOf j := hunique _ (by simpa only [hround] using hk)
  exact Fin.ext (((step_eq_iff k _ _).mpr ⟨hround, hplace⟩).trans hj.symm)

theorem rlRows_injective (q : Fin 4) : Function.Injective fun p : Fin 16 => rlRows[q][p] := by
  revert q
  unfold Function.Injective
  decide

theorem rrRows_injective (q : Fin 4) : Function.Injective fun p : Fin 16 => rrRows[q][p] := by
  revert q
  unfold Function.Injective
  decide

theorem slRows_bounds : ∀ (q : Fin 4) (p : Fin 16), 5 ≤ slRows[q][p] ∧ slRows[q][p] ≤ 15 := by decide

theorem srRows_bounds : ∀ (q : Fin 4) (p : Fin 16), 5 ≤ srRows[q][p] ∧ srRows[q][p] ≤ 15 := by decide

/-- Settles O13: the entries are read off the tables; each row of a selection table is injective, so it takes every message
word exactly once; the amounts are bounded row by row. -/
theorem selectionAndRotationTables : Obligations.SelectionAndRotationTables := by
  refine ⟨fun _ => rfl, rfl, rfl, by decide, by decide, by decide, by decide,
    existsUnique_step_of_rows_injective rlRows rlRows_injective,
    existsUnique_step_of_rows_injective rrRows rrRows_injective, fun j => ?_⟩
  obtain ⟨hl5, hl15⟩ := slRows_bounds (roundOf j) (placeOf j)
  obtain ⟨hr5, hr15⟩ := srRows_bounds (roundOf j) (placeOf j)
  exact ⟨hl5, hl15, hr5, hr15⟩

end Sys2Proof.Machine
end

section
/-! PROOFS. The compression function (41_ripemd128.md R119 to R124): its loop runs the two lines side by side, each on its
own registers only. -/

namespace Sys2Proof.Machine

/-- A sequence that takes step `j` from place `j` to place `j + 1` is, at place `n`, the fold of the first `n` steps. -/
theorem foldl_finRange_eq_trace {α : Type} {n : Nat} (f : Fin n → α → α) (l : Nat → α)
    (h : ∀ j : Fin n, l (j.val + 1) = f j (l j.val)) :
    (List.finRange n).foldl (fun a j => f j a) (l 0) = l n := by
  rw [← Fin.foldl_eq_foldl_finRange]
  induction n with
  | zero => rfl
  | succ n ih =>
    rw [Fin.foldl_succ_last, ih (fun j => f j.castSucc) fun j => h j.castSucc]
    exact (h (Fin.last n)).symm

/-- R124's loop on both lines is the left line's loop beside the right line's. -/
theorem runLines_eq (X : Vector Word 16) (left right : Line) :
    runLines X (left, right) =
      ((List.finRange 64).foldl (fun l j => leftStep X j l) left,
        (List.finRange 64).foldl (fun l j => rightStep X j l) right) :=
  List.foldl_hom₂ _ Prod.mk _ _ _ _ _ fun _ _ _ => rfl

/-- Settles O10: each line's loop, run on its own, ends in the last place of that line's trace. -/
theorem compressMergesIndependentLines : Obligations.CompressMergesIndependentLines := by
  intro h X l r hl0 hr0 hl hr
  have hleft : (List.finRange 64).foldl (fun p j => leftStep X j p) (Line.start h) = l 64 := by
    rw [Line.start, ← hl0]
    exact foldl_finRange_eq_trace _ l hl
  have hright : (List.finRange 64).foldl (fun p j => rightStep X j p) (Line.start h) = r 64 := by
    rw [Line.start, ← hr0]
    exact foldl_finRange_eq_trace _ r hr
  rw [compress, runLines_eq, hleft, hright, mergeLines]

end Sys2Proof.Machine
end

section
/-! PROOFS. The commands of the hash unit (41_ripemd128.md R131, R132). -/

namespace Sys2Proof.Machine

theorem decode_encode_rmdInit : decode (encode .rmdInit) = .ok .rmdInit := by decide

theorem decode_encode_rmdCompress : decode (encode .rmdCompress) = .ok .rmdCompress := by decide

/-- R131: RMD_INIT loads the initial values and completes. -/
theorem exec_rmdInit (s : State) : exec .rmdInit s = .next { s with chain := iv, err := 0#4 } := rfl

/-- R132: RMD_COMPRESS compresses the message block into the chaining registers and completes. -/
theorem exec_rmdCompress (s : State) :
    exec .rmdCompress s = .next { s with chain := compress s.chain s.mblk, err := 0#4 } := rfl

/-- Settles O8: the word 1 is RMD_INIT's encoding, and the values it loads are the ones reset leaves. -/
theorem rmdInitLoadsInitialValues : Obligations.RmdInitLoadsInitialValues :=
  ⟨decode_encode_rmdInit, exec_rmdInit, rfl⟩

/-- Settles O9: the word 2 is RMD_COMPRESS's encoding, and the command is the one update of the chaining registers. -/
theorem rmdCompressUpdatesChain : Obligations.RmdCompressUpdatesChain :=
  ⟨decode_encode_rmdCompress, exec_rmdCompress⟩

end Sys2Proof.Machine
end

section
/-! PROOFS. Padding (41_ripemd128.md R133): the number of zero bytes, and the bytes of the bit length. -/

namespace Sys2Proof.Machine

/-- The zero bytes are the fewest that fill the last block up to its length bytes. -/
theorem padZeros_spec (n : Nat) : padZeros n ≤ 63 ∧ (n + 1 + padZeros n) % 64 = 56 := by
  unfold padZeros
  omega

theorem length_bytesLe64 (v : Word64) : (bytesLe64 v).length = 8 := rfl

/-- Byte `i` of a 64-bit value, by value. -/
theorem toNat_getElem?_bytesLe64 (v : Word64) (i : Fin 8) :
    (bytesLe64 v)[i.val]?.map BitVec.toNat = some (v.toNat / 2 ^ (8 * i.val) % 2 ^ 8) := by
  simp [bytesLe64_eq_map_range, BitVec.extractLsb'_toNat, Nat.shiftRight_eq_div_pow]

theorem length_padMessage (m : List Byte) : (padMessage m).length = 64 * ((m.length + 8) / 64 + 1) := by
  have hz := padZeros_spec m.length
  simp only [padMessage, List.length_append, List.length_singleton, List.length_replicate, length_bytesLe64]
  omega

/-- Settles O44: the padding is `padZeros` zero bytes and the eight bytes of the bit length. -/
theorem paddingRule : Obligations.PaddingRule := fun m =>
  have ⟨hle, hmod⟩ := padZeros_spec m.length
  ⟨padZeros m.length, bytesLe64 (BitVec.ofNat 64 (8 * m.length)), hle, rfl, hmod, length_bytesLe64 _,
    fun i => by rw [toNat_getElem?_bytesLe64, BitVec.toNat_ofNat], length_padMessage m⟩

end Sys2Proof.Machine
end

section
/-! PROOFS. HASH (41_ripemd128.md R135, R136): writing a register array, compressing one block, compressing a list of blocks,
reading the digest, and the whole program. -/

namespace Sys2Proof.Machine

/-! ### Writing a register array -/

section
variable {n : Nat} {reg : Fin n → Reg} {put : Vector Word n → State}

/-- Writes to entries of one register array: each entry written holds its word, every other entry is as before, and nothing
but the array changes. `put x` is the state in which the array is `x`. -/
theorem runProgram_wr_array (hput : ∀ x i v, storeReg (put x) v (reg i) = some (put (x.set i v))) (w : Fin n → Word)
    (is : List (Fin n)) (x : Vector Word n) :
    ∃ y : Vector Word n, (∀ i : Fin n, y[i] = if i ∈ is then w i else x[i]) ∧
      runProgram (is.map fun i => wr (reg i) (w i)) (put x) = .next (List.replicate is.length .ack, put y) := by
  induction is generalizing x with
  | nil => exact ⟨x, by simp, rfl⟩
  | cons j is ih =>
    obtain ⟨y, hy, hrun⟩ := ih (x.set j (w j))
    refine ⟨y, fun i => ?_, runProgram_cons_next (busAccess_wr _ _ _ (hput x j (w j))) hrun⟩
    rw [hy i]
    by_cases hij : i = j
    · simp [hij]
    · have hval : j.val ≠ i.val := fun h => hij (Fin.ext h.symm)
      simp [hij, Vector.getElem_set_ne, hval]

/-- Writes to every entry of a register array fill it. -/
theorem runProgram_wr_whole_array (hput : ∀ x i v, storeReg (put x) v (reg i) = some (put (x.set i v)))
    (w : Fin n → Word) (x : Vector Word n) :
    runProgram ((List.finRange n).map fun i => wr (reg i) (w i)) (put x) =
      .next (List.replicate n .ack, put (Vector.ofFn w)) := by
  obtain ⟨y, hy, hrun⟩ := runProgram_wr_array hput w (List.finRange n) x
  obtain rfl : y = Vector.ofFn w := by
    refine Vector.ext fun i hi => ?_
    simpa using hy ⟨i, hi⟩
  simpa using hrun

end

/-! ### Blocks -/

/-- A block of bytes as the message words that LOADBLK writes (R87). -/
def blockWords (b : List Byte) : Vector Word 16 := Vector.ofFn fun i : Fin 16 => wordAt b i.val

/-- R135: the compression of blocks in order. -/
def compressBlocks (bs : List (List Byte)) (h : Chain) : Chain := bs.foldl (fun h b => compress h (blockWords b)) h

/-- All that HASH changes of a state: the message block buffer, the chaining registers, and ERR, which is 0. -/
def State.withHash (s : State) (x : Vector Word 16) (h : Chain) : State := { s with mblk := x, chain := h, err := 0#4 }

section
variable (s : State) (x x' : Vector Word 16) (h h' : Chain)

@[simp] theorem State.withHash_err : (s.withHash x h).err = 0#4 := rfl
@[simp] theorem State.withHash_chain : (s.withHash x h).chain = h := rfl
@[simp] theorem State.withHash_mblk : (s.withHash x h).mblk = x := rfl
@[simp] theorem State.withHash_staging : (s.withHash x h).staging = s.staging := rfl
@[simp] theorem State.withHash_cipher : (s.withHash x h).cipher = s.cipher := rfl
@[simp] theorem State.withHash_ctr : (s.withHash x h).ctr = s.ctr := rfl
@[simp] theorem State.withHash_din : (s.withHash x h).din = s.din := rfl
@[simp] theorem State.withHash_dout : (s.withHash x h).dout = s.dout := rfl

theorem State.withHash_withMblk : (s.withHash x h).withMblk x' = s.withHash x' h := rfl
theorem State.withHash_set_chain : { s.withHash x h with chain := h', err := 0#4 } = s.withHash x h' := rfl

end

/-- LOADBLK fills the message block buffer and changes nothing else. -/
theorem runProgram_loadBlk (b : List Byte) (s : State) :
    runProgram (loadBlk b) s = .next (List.replicate 16 .ack, s.withMblk (blockWords b)) :=
  runProgram_wr_whole_array (put := s.withMblk) (fun _ _ _ => rfl) _ s.mblk

theorem busAccess_rmdInit (s : State) : busAccess (cmd .rmdInit) s = .next (.ack, s.withHash s.mblk iv) :=
  busAccess_cmd s .rmdInit decode_encode_rmdInit (exec_rmdInit s)

theorem busAccess_rmdCompress (s : State) (x : Vector Word 16) (h : Chain) :
    busAccess (cmd .rmdCompress) (s.withHash x h) = .next (.ack, s.withHash x (compress h x)) := by
  rw [busAccess_cmd _ .rmdCompress decode_encode_rmdCompress (exec_rmdCompress _), State.withHash_set_chain,
    State.withHash_chain, State.withHash_mblk]

/-- One block of HASH reads nothing, and the chaining registers take its compression. -/
theorem runProgram_block (b : List Byte) (s : State) (x : Vector Word 16) (h : Chain) :
    ∃ rs, valuesOf rs = [] ∧ runProgram (loadBlk b ++ [cmd .rmdCompress]) (s.withHash x h) =
      .next (rs, s.withHash (blockWords b) (compress h (blockWords b))) := by
  refine ⟨List.replicate 16 .ack ++ [.ack], rfl, runProgram_append_next (runProgram_loadBlk b _) ?_⟩
  rw [State.withHash_withMblk]
  exact runProgram_cons_next (busAccess_rmdCompress s _ h) (runProgram_nil _)

/-- The blocks of HASH read nothing, and the chaining registers take their compression in order. -/
theorem runProgram_blocks (bs : List (List Byte)) (s : State) (x : Vector Word 16) (h : Chain) :
    ∃ rs x', valuesOf rs = [] ∧ runProgram (bs.flatMap fun b => loadBlk b ++ [cmd .rmdCompress]) (s.withHash x h) =
      .next (rs, s.withHash x' (compressBlocks bs h)) := by
  induction bs generalizing x h with
  | nil => exact ⟨[], x, rfl, rfl⟩
  | cons b bs ih =>
    obtain ⟨rs, hrs, hblock⟩ := runProgram_block b s x h
    obtain ⟨rs', x', hrs', hblocks⟩ := ih (blockWords b) (compress h (blockWords b))
    refine ⟨rs ++ rs', x', by rw [valuesOf_append, hrs, hrs', List.append_nil], ?_⟩
    rw [List.flatMap_cons, compressBlocks, List.foldl_cons]
    exact runProgram_append_next hblock hblocks

/-! ### The digest and the whole program -/

/-- READDIGEST answers the four chaining registers and changes nothing. -/
theorem runProgram_readDigest (s : State) :
    runProgram readDigest s =
      .next ([.value s.chain.h0, .value s.chain.h1, .value s.chain.h2, .value s.chain.h3], s) :=
  runProgram_cons_next (busAccess_rd s (.h 0) rfl) <| runProgram_cons_next (busAccess_rd s (.h 1) rfl) <|
    runProgram_cons_next (busAccess_rd s (.h 2) rfl) <| runProgram_cons_next (busAccess_rd s (.h 3) rfl) rfl

/-- R135: the bytes of a digest. -/
def digestBytes (h : Chain) : List Byte := bytesLe32 h.h0 ++ bytesLe32 h.h1 ++ bytesLe32 h.h2 ++ bytesLe32 h.h3

theorem bytesOf_digest (h : Chain) : bytesOf [h.h0, h.h1, h.h2, h.h3] = digestBytes h := by
  simp [bytesOf, digestBytes]

/-- HASH from any state: the digest of the blocks compressed in order from the initial values. -/
theorem hash_eq (m : List Byte) (s : State) :
    ∃ x, hash m s = .next (digestBytes (compressBlocks (windows (padMessage m)) iv),
      s.withHash x (compressBlocks (windows (padMessage m)) iv)) := by
  obtain ⟨rs, x, hrs, hblocks⟩ := runProgram_blocks (windows (padMessage m)) s s.mblk iv
  have hrun := runProgram_append_next (runProgram_cons_next (busAccess_rmdInit s) hblocks) (runProgram_readDigest _)
  refine ⟨x, ?_⟩
  rw [hash, hashProgram, hrun, andThen_next, State.withHash_chain, ← bytesOf_digest]
  simp [hrs]

/-- Settles O45: RMD_INIT makes the result independent of the state HASH starts in, each block is one compression, and the
digest is read from the chaining registers. -/
theorem hashIsFoldOfCompress : Obligations.HashIsFoldOfCompress := by
  intro m s
  obtain ⟨x, hx⟩ := hash_eq m s
  exact ⟨_, hx, s.withHash_chain x _, s.withHash_err x _, s.withHash_staging x _, s.withHash_cipher x _,
    s.withHash_ctr x _, s.withHash_din x _, s.withHash_dout x _⟩

end Sys2Proof.Machine
end

section
/-! PROOFS. The cipher unit's datapath (42_salsa20.md R153 to R160): the input state slot by slot, a quarter-round as its
four updates in order, the keystream block, and the XOR lanes. -/

namespace Sys2Proof.Machine

/-! ### The input state -/

theorem toNat_ctr_low (c : Word64) : (c.extractLsb' 0 32).toNat = c.toNat % 2 ^ 32 := by
  rw [BitVec.extractLsb'_toNat, Nat.shiftRight_zero]

theorem toNat_ctr_high (c : Word64) : (c.extractLsb' 32 32).toNat = c.toNat / 2 ^ 32 := by
  rw [BitVec.extractLsb'_toNat, Nat.shiftRight_eq_div_pow]
  omega

/-- A 64-bit value is its high half over its low half (R26). -/
theorem ctr_high_append_low (c : Word64) : c.extractLsb' 32 32 ++ c.extractLsb' 0 32 = c := by
  refine BitVec.eq_of_toNat_eq ?_
  rw [BitVec.toNat_append, toNat_ctr_high, toNat_ctr_low, ← Nat.shiftLeft_add_eq_or_of_lt (Nat.mod_lt _ (by decide)),
    Nat.shiftLeft_eq, Nat.div_add_mod']

/-- Settles O14: the slots are the entries of the list that `inputState` is; the counter's halves by value. -/
theorem inputStateLayout : Obligations.InputStateLayout := fun _ c =>
  ⟨rfl, rfl, rfl, rfl, rfl, rfl, rfl, rfl, toNat_ctr_low c, toNat_ctr_high c, rfl, rfl, rfl, rfl, rfl, rfl⟩

/-! ### The ARX update and the quarter-round -/

section
variable (t a b : Fin 16) (n : Nat) (x : Block)

/-- R154: the word that an ARX update writes. -/
theorem getElem_arx_self : (arx t a b n x)[t] = x[t] ^^^ rol32 (x[a] + x[b]) n := by
  simp [arx]

/-- R154: an ARX update writes no other word. -/
theorem getElem_arx_of_ne {i : Fin 16} (h : i ≠ t) : (arx t a b n x)[i] = x[i] := by
  simp [arx, Fin.val_ne_of_ne h.symm]

end

/-- R155: a quarter-round writes no word but those of its four indices. -/
theorem getElem_quarterRound_of_notMem (q : Quad) (x : Block) {i : Fin 16} (hi : i ∉ [q.y0, q.y1, q.y2, q.y3]) :
    (quarterRound q x)[i] = x[i] := by
  obtain ⟨h0, h1, h2, h3⟩ : i ≠ q.y0 ∧ i ≠ q.y1 ∧ i ≠ q.y2 ∧ i ≠ q.y3 := by simpa using hi
  simp only [quarterRound, getElem_arx_of_ne, ne_eq, not_false_eq_true, h0, h1, h2, h3]

/-- Settles O15: the indices being distinct, no update writes a word that another one has written, and each reads words
that are final or still the input's. -/
theorem quarterRoundWritesFourWords : Obligations.QuarterRoundWritesFourWords := by
  intro y0 y1 y2 y3 x hnodup
  obtain ⟨⟨h01, h02, h03⟩, ⟨h12, h13⟩, h23⟩ :
      (y0 ≠ y1 ∧ y0 ≠ y2 ∧ y0 ≠ y3) ∧ (y1 ≠ y2 ∧ y1 ≠ y3) ∧ y2 ≠ y3 := by simpa using hnodup
  refine ⟨?_, ?_, ?_, ?_, fun i hi => getElem_quarterRound_of_notMem ⟨y0, y1, y2, y3⟩ x hi⟩ <;>
    simp only [quarterRound, getElem_arx_self, getElem_arx_of_ne, ne_eq, not_false_eq_true, h01, h01.symm, h02,
      h02.symm, h03, h03.symm, h12, h12.symm, h13, h13.symm, h23, h23.symm]

/-! ### The keystream block -/

/-- A sequence in which each place is a double-round of the one before is, at place `m`, `m` double-rounds of its start. -/
theorem doubleRounds_eq_trace (m : Nat) (x : Nat → Block) (h : ∀ n < m, x (n + 1) = rowRound (columnRound (x n))) :
    doubleRounds m (x 0) = x m := by
  induction m generalizing x with
  | zero => rfl
  | succ m ih =>
    rw [doubleRounds, doubleRound, ← h 0 (Nat.succ_pos m)]
    exact ih (fun n => x (n + 1)) fun n hn => h (n + 1) (Nat.succ_lt_succ hn)

theorem doubleRoundCount_of_even {k : Cipher} {m : Nat} (h : k.cr.toInt = 2 * m) : doubleRoundCount k = m := by
  rw [doubleRoundCount, h]
  omega

theorem getElem_keystreamWords (k : Cipher) (c : Word64) (i : Fin 16) :
    (keystreamWords k c)[i] = (doubleRounds (doubleRoundCount k) (inputState k c))[i] + (inputState k c)[i] :=
  Vector.getElem_ofFn ..

/-- R50: byte `4 i + j` of an array is lane `j` of its word `i`. -/
theorem byteView_lane {n : Nat} (x : Vector Word n) (i : Fin n) (j : Fin 4) :
    byteView x ⟨4 * i.val + j.val, by omega⟩ = byteOf x[i] j.val := by
  have hword : (4 * i.val + j.val) / 4 = i.val := by omega
  have hlane : (4 * i.val + j.val) % 4 = j.val := by omega
  simp only [byteView, hword, hlane, Fin.getElem_fin]

/-- Settles O17: `CR / 2` is `m`, and the `m` double-rounds end in the last place of the trace. -/
theorem keystreamBlockRule : Obligations.KeystreamBlockRule := by
  intro k c m x hcr hstart hround i
  have hword : (keystreamWords k c)[i] = (x m)[i] + (inputState k c)[i] := by
    rw [getElem_keystreamWords, doubleRoundCount_of_even hcr, ← hstart, doubleRounds_eq_trace m x hround]
  exact ⟨hword, fun j => by rw [byteView_lane, hword, byteOf]⟩

/-! ### The XOR lanes -/

/-- R160: the bytes of the words written to DOUT are the lanes. -/
theorem byteView_xorWindow (len : Nat) (din ks : Vector Word 16) (i : Fin 64) :
    byteView (n := 16) (xorWindow len din ks) i =
      if i.val < len then byteView (n := 16) din i ^^^ byteView (n := 16) ks i else 0x00#8 :=
  byteView_packBytes (n := 16) _ i

end Sys2Proof.Machine
end

section
/-! PROOFS. The cipher unit's command words (30_encoding.md R83, R84): the words of the rows of SALSA_INIT, SALSA_SEEK
and SALSA_XOR, and what they decode to. -/

namespace Sys2Proof

/-- Rows that one word meets have the same opcode. -/
theorem opField_rowMatch_eq {v : Word} {i j : Instr} (hi : v &&& rowMask i = rowMatch i)
    (hj : v &&& rowMask j = rowMatch j) : opField (rowMatch i) = opField (rowMatch j) :=
  ((meets_row_iff v i).mp hi).1.symm.trans ((meets_row_iff v j).mp hj).1

/-- SALSA_INIT's row is the only one with OP = 0x10. -/
theorem exists_eq_salsaInit_of_opField_rowMatch {i : Instr} (h : opField (rowMatch i) = 0x10#8) :
    ∃ klen nlen, i = .salsaInit klen nlen := by
  cases i with
  | salsaInit klen nlen => exact ⟨klen, nlen, rfl⟩
  | nop | rmdInit | rmdCompress | salsaSeek | salsaXor => exact absurd h (by simp [opField, rowMatch])

/-- SALSA_XOR's row is the only one with OP = 0x12. -/
theorem exists_eq_salsaXor_of_opField_rowMatch {i : Instr} (h : opField (rowMatch i) = 0x12#8) :
    ∃ len, i = .salsaXor len := by
  cases i with
  | salsaXor len => exact ⟨len, rfl⟩
  | nop | rmdInit | rmdCompress | salsaInit | salsaSeek => exact absurd h (by simp [opField, rowMatch])

/-- R83: every word of SALSA_INIT's row decodes to it, with the fields of the word. -/
theorem decode_of_meets_salsaInit_row {v : Word} (hrow : v &&& 0xF0C0FFFF#32 = 0x00000010#32) :
    decode v = .ok (.salsaInit (klenField v) (nlenField v)) := by
  obtain ⟨i, hi⟩ := (exists_decode_iff_meets_row v).mpr ⟨.salsaInit 0#6 0#4, hrow, nofun⟩
  obtain ⟨klen, nlen, rfl⟩ := exists_eq_salsaInit_of_opField_rowMatch
    (opField_rowMatch_eq (j := .salsaInit 0#6 0#4) (decode_row hi) hrow)
  simpa [hi] using decode_fields hi

/-- R83, R84: a word of SALSA_XOR's row with `LEN` at most 64 decodes to it, with the field of the word. -/
theorem decode_of_meets_salsaXor_row {v : Word} (hrow : v &&& 0xFFFF80FF#32 = 0x00000012#32)
    (hlen : (lenField v).toNat ≤ 64) : decode v = .ok (.salsaXor (lenField v)) := by
  obtain ⟨i, hi⟩ := (exists_decode_iff_meets_row v).mpr ⟨.salsaXor 0#7, hrow, fun _ _ => hlen⟩
  obtain ⟨len, rfl⟩ := exists_eq_salsaXor_of_opField_rowMatch
    (opField_rowMatch_eq (j := .salsaXor 0#7) (decode_row hi) hrow)
  simpa [hi] using decode_fields hi

/-- R84: a word of SALSA_XOR's row with `LEN` above 64 is no command. -/
theorem decode_ne_ok_of_lenField_gt {v : Word} (hrow : v &&& 0xFFFF80FF#32 = 0x00000012#32)
    (hlen : 64 < (lenField v).toNat) (i : Instr) : decode v ≠ .ok i := by
  intro hi
  obtain ⟨j, hj, hle⟩ := (exists_decode_iff_meets_row v).mp ⟨i, hi⟩
  obtain ⟨len, rfl⟩ := exists_eq_salsaXor_of_opField_rowMatch (opField_rowMatch_eq (j := .salsaXor 0#7) hj hrow)
  exact absurd (hle len rfl) (Nat.not_le.mpr hlen)

theorem decode_encode_salsaSeek : decode (encode .salsaSeek) = .ok .salsaSeek := by decide

end Sys2Proof
end

section
/-! PROOFS. The cipher unit's commands (42_salsa20.md R170 to R172): one equation for each way a command ends. -/

namespace Sys2Proof.Machine

/-! ### SALSA_INIT -/

theorem keyLenOk_eq_false_iff {klen : BitVec 6} : keyLenOk klen = false ↔ klen.toNat ≠ 16 ∧ klen.toNat ≠ 32 := by
  simp [keyLenOk, ← BitVec.toNat_inj]

theorem nonceLenOk_eq_false_iff {nlen : BitVec 4} : nonceLenOk nlen = false ↔ nlen.toNat ≠ 8 := by
  simp [nonceLenOk, ← BitVec.toNat_inj]

theorem roundsOk_eq_false_iff {r : Int} : roundsOk r = false ↔ r ≤ 0 ∨ r % 2 ≠ 0 := by
  simp [roundsOk, imp_iff_not_or]

/-- A check that fails exactly on `P` passes without it. -/
theorem eq_true_of_eq_false_iff {b : Bool} {P : Prop} (h : b = false ↔ P) (hP : ¬ P) : b = true :=
  Bool.eq_true_of_not_eq_false (mt h.mp hP)

section
variable {klen : BitVec 6} {nlen : BitVec 4} {s : State}

theorem exec_salsaInit_of_bad_key (hk : keyLenOk klen = false) :
    exec (.salsaInit klen nlen) s = .next (s.withErr .invalidKeySize) := by
  simp [exec, execSalsaInit, hk]

theorem exec_salsaInit_of_bad_nonce (hk : keyLenOk klen = true) (hn : nonceLenOk nlen = false) :
    exec (.salsaInit klen nlen) s = .next (s.withErr .invalidNonceSize) := by
  simp [exec, execSalsaInit, hk, hn]

theorem exec_salsaInit_of_bad_rounds (hk : keyLenOk klen = true) (hn : nonceLenOk nlen = true)
    (hr : roundsOk (signedRounds s) = false) :
    exec (.salsaInit klen nlen) s = .next (s.withErr .invalidRounds) := by
  simp [exec, execSalsaInit, hk, hn, hr]

theorem exec_salsaInit_of_ok (hk : keyLenOk klen = true) (hn : nonceLenOk nlen = true)
    (hr : roundsOk (signedRounds s) = true) :
    exec (.salsaInit klen nlen) s =
      .next { s with cipher := constructed (klen == 32#6) s.staging, ctr := ctrin s, err := 0#4 } := by
  simp [exec, execSalsaInit, hk, hn, hr]

end

/-- R151: a 16-byte key occupies the eight words twice over. -/
theorem expandKey_eq (key32 : Bool) (key : Vector Word 8) :
    expandKey key32 key =
      if key32 then key else #v[key[0], key[1], key[2], key[3], key[0], key[1], key[2], key[3]] := rfl

theorem klen_beq_32 (klen : BitVec 6) : (klen == 32#6) = decide (klen.toNat = 32) := by
  rw [Bool.eq_iff_iff, beq_iff_eq, decide_eq_true_iff, ← BitVec.toNat_inj, BitVec.toNat_ofNat]

/-- R170, R150 to R152: the cipher that SALSA_INIT constructs, field by field. -/
theorem constructed_of_klen (klen : BitVec 6) (g : Staging) :
    constructed (klen == 32#6) g =
      { ck := if klen.toNat = 32 then g.key
          else #v[g.key[0], g.key[1], g.key[2], g.key[3], g.key[0], g.key[1], g.key[2], g.key[3]]
        cn := g.nonce
        cc := if klen.toNat = 32 then sigma else tau
        cr := g.rounds
        cvalid := true
        ckey32 := decide (klen.toNat = 32) } := by
  simp only [constructed, expandKey_eq, klen_beq_32, decide_eq_true_iff]

/-- Settles O18: the row decodes by its opcode; the checks of `exec` fail on the statement's conditions, so each premise
selects one way to end. -/
theorem salsaInitConstructsOrReportsFirstFailure : Obligations.SalsaInitConstructsOrReportsFirstFailure := by
  refine ⟨fun v => decode_of_meets_salsaInit_row, fun klen nlen s => ⟨fun hk => ?_, fun hk hn => ?_,
    fun hk hn hr => ?_, fun hk hn hr => ?_⟩⟩
  · exact exec_salsaInit_of_bad_key (keyLenOk_eq_false_iff.mpr hk)
  · exact exec_salsaInit_of_bad_nonce (eq_true_of_eq_false_iff keyLenOk_eq_false_iff hk)
      (nonceLenOk_eq_false_iff.mpr hn)
  · exact exec_salsaInit_of_bad_rounds (eq_true_of_eq_false_iff keyLenOk_eq_false_iff hk)
      (eq_true_of_eq_false_iff nonceLenOk_eq_false_iff hn) (roundsOk_eq_false_iff.mpr hr)
  · rw [exec_salsaInit_of_ok (eq_true_of_eq_false_iff keyLenOk_eq_false_iff hk)
      (eq_true_of_eq_false_iff nonceLenOk_eq_false_iff hn) (eq_true_of_eq_false_iff roundsOk_eq_false_iff hr),
      constructed_of_klen]
    rfl

/-! ### SALSA_SEEK -/

theorem exec_salsaSeek_of_no_cipher {s : State} (h : s.cipher.cvalid = false) :
    exec .salsaSeek s = .next (s.withErr .noCipher) := by
  simp [exec, execSalsaSeek, h]

theorem exec_salsaSeek_of_cipher {s : State} (h : s.cipher.cvalid = true) :
    exec .salsaSeek s = .next { s with ctr := ctrin s, err := 0#4 } := by
  simp [exec, execSalsaSeek, h]

/-- Settles O19: the word 0x11 is SALSA_SEEK's encoding, and its one check is CVALID. -/
theorem salsaSeekSetsCounter : Obligations.SalsaSeekSetsCounter :=
  ⟨decode_encode_salsaSeek, fun _ => exec_salsaSeek_of_cipher, fun _ => exec_salsaSeek_of_no_cipher⟩

/-! ### SALSA_XOR -/

section
variable {len : BitVec 7} {s : State}

theorem exec_salsaXor_of_empty (h : s.cipher.cvalid = true) (h0 : len.toNat = 0) :
    exec (.salsaXor len) s = .next (s.withErr .ok) := by
  simp [exec, execSalsaXor, h, h0]

variable (hlen : len.toNat ≤ 64)
include hlen

theorem exec_salsaXor_of_no_cipher (h : s.cipher.cvalid = false) :
    exec (.salsaXor len) s = .next (s.withErr .noCipher) := by
  simp [exec, execSalsaXor, Nat.not_lt.mpr hlen, h]

theorem exec_salsaXor_of_window (h : s.cipher.cvalid = true) (h1 : 1 ≤ len.toNat) :
    exec (.salsaXor len) s = .next { s with
      dout := xorWindow len.toNat s.din (keystreamWords s.cipher s.ctr), ctr := s.ctr + 1#64, err := 0#4 } := by
  simp [exec, execSalsaXor, Nat.not_lt.mpr hlen, h, Nat.pos_iff_ne_zero.mp h1]

end

/-- Settles O20: the row decodes by its opcode, up to `LEN` 64; each way the command ends is one equation, and the bytes
written to DOUT are the lanes of the XOR datapath. -/
theorem salsaXorProcessesOneWindow : Obligations.SalsaXorProcessesOneWindow :=
  ⟨fun _ hrow => ⟨decode_of_meets_salsaXor_row hrow,
      fun hlen s => execute_of_decode_ne_ok (decode_ne_ok_of_lenField_gt hrow hlen) s⟩,
    fun len s hlen => ⟨exec_salsaXor_of_no_cipher hlen, exec_salsaXor_of_empty,
      fun h h1 => ⟨_, exec_salsaXor_of_window hlen h h1, byteView_xorWindow len.toNat s.din _⟩⟩⟩

end Sys2Proof.Machine
end

section
/-! PROOFS. SEEK (42_salsa20.md R177): staging the counter value, then SALSA_SEEK. -/

namespace Sys2Proof.Machine

/-- What SETCTRIN changes of a state: the two staging registers of the counter value. -/
def State.withCtrin (s : State) (c : Word64) : State :=
  s.withStaging { s.staging with ctrinLo := c.extractLsb' 0 32, ctrinHi := c.extractLsb' 32 32 }

/-- The staged value is the one SETCTRIN was given (R24). -/
theorem ctrin_withCtrin (s : State) (c : Word64) : ctrin (s.withCtrin c) = c := ctr_high_append_low c

theorem runProgram_setCtrin (s : State) (c : Word64) :
    runProgram (setCtrin c) s = .next ([.ack, .ack], s.withCtrin c) :=
  runProgram_cons_next (busAccess_wr s .ctrinLo _ rfl) <| runProgram_cons_next (busAccess_wr _ .ctrinHi _ rfl) rfl

/-- SEEK is SALSA_SEEK in the state with the counter value staged. -/
theorem seek_eq {s t : State} {c : Word64} (h : exec .salsaSeek (s.withCtrin c) = .next t) : seek c s = .next t := by
  have hrun := runProgram_append_next (runProgram_setCtrin s c)
    (runProgram_cons_next (busAccess_cmd _ .salsaSeek decode_encode_salsaSeek h) (runProgram_nil t))
  rw [seek, seekProgram, hrun, andThen_next]

/-- Settles O48: SEEK ends as SALSA_SEEK does, and the staged value is the one given. -/
theorem seekOverwritesCounter : Obligations.SeekOverwritesCounter := by
  intro c s
  refine ⟨fun h => seek_eq ?_, fun h => seek_eq (exec_salsaSeek_of_no_cipher h)⟩
  rw [exec_salsaSeek_of_cipher (s := s.withCtrin c) h, ctrin_withCtrin]
  rfl

end Sys2Proof.Machine
end

section
/-! PROOFS. How a command word ends (60_exceptions.md R200, R202, R203): the code it leaves in ERR, said once for the
commands and once for the words; a code other than 0 comes with no other change. -/

namespace Sys2Proof.Machine

/-! ### Ending with a code -/

/-- The outcome `o` of a command begun in `s` is a next state with the code `c` in ERR, and an error code is the only
change (R200, R202). -/
def EndsWith (s : State) (c : ErrCode) (o : Result State) : Prop :=
  ∃ t, o = .next t ∧ t.err = c.bits ∧ (c ≠ .ok → t = s.withErr c)

theorem endsWith_withErr (s : State) (c : ErrCode) : EndsWith s c (.next (s.withErr c)) :=
  ⟨_, rfl, rfl, fun _ => rfl⟩

theorem endsWith_ok_of_err_eq_zero (s : State) {t : State} (h : t.err = 0#4) : EndsWith s .ok (.next t) :=
  ⟨t, rfl, h, fun hne => absurd rfl hne⟩

/-! ### The code of a command -/

/-- The first check of a command that fails, in the order of its rule: SALSA_INIT's three (R170), the cipher that SALSA_SEEK
(R171) and SALSA_XOR (R172) need, and the length of SALSA_XOR's window. -/
def resultCode (i : Instr) (s : State) : ErrCode :=
  match i with
  | .nop | .rmdInit | .rmdCompress => .ok
  | .salsaInit klen nlen =>
    if klen.toNat ≠ 16 ∧ klen.toNat ≠ 32 then .invalidKeySize
    else if nlen.toNat ≠ 8 then .invalidNonceSize
    else if s.staging.rounds.toInt ≤ 0 ∨ s.staging.rounds.toInt % 2 ≠ 0 then .invalidRounds
    else .ok
  | .salsaSeek => if s.cipher.cvalid = false then .noCipher else .ok
  | .salsaXor len =>
    if 64 < len.toNat then .badCommand else if s.cipher.cvalid = false then .noCipher else .ok

/-- SALSA_INIT ends with its first failing check. -/
theorem exec_salsaInit_endsWith (klen : BitVec 6) (nlen : BitVec 4) (s : State) :
    EndsWith s (resultCode (.salsaInit klen nlen) s) (exec (.salsaInit klen nlen) s) := by
  obtain ⟨hbadKey, hbadNonce, hbadRounds, hok⟩ := salsaInitConstructsOrReportsFirstFailure.2 klen nlen s
  simp only [resultCode]
  split_ifs with hk hn hr
  · rw [hbadKey hk]; exact endsWith_withErr s .invalidKeySize
  · rw [hbadNonce hk hn]; exact endsWith_withErr s .invalidNonceSize
  · rw [hbadRounds hk hn hr]; exact endsWith_withErr s .invalidRounds
  · rw [hok hk hn hr]; exact endsWith_ok_of_err_eq_zero s rfl

/-- SALSA_SEEK ends with NO_CIPHER or completes. -/
theorem exec_salsaSeek_endsWith (s : State) : EndsWith s (resultCode .salsaSeek s) (exec .salsaSeek s) := by
  simp only [resultCode]
  split_ifs with hc
  · rw [exec_salsaSeek_of_no_cipher hc]; exact endsWith_withErr s .noCipher
  · rw [exec_salsaSeek_of_cipher (Bool.eq_true_of_not_eq_false hc)]; exact endsWith_ok_of_err_eq_zero s rfl

/-- SALSA_XOR with `LEN` above 64, which no word decodes to, is a bad command. -/
theorem exec_salsaXor_of_bad_len {len : BitVec 7} (hlen : 64 < len.toNat) (s : State) :
    exec (.salsaXor len) s = .next (s.withErr .badCommand) := by
  simp [exec, execSalsaXor, hlen]

/-- SALSA_XOR ends with its first failing check; the empty window and the window of 1 to 64 bytes both complete. -/
theorem exec_salsaXor_endsWith (len : BitVec 7) (s : State) :
    EndsWith s (resultCode (.salsaXor len) s) (exec (.salsaXor len) s) := by
  simp only [resultCode]
  split_ifs with hlen hc
  · rw [exec_salsaXor_of_bad_len hlen]; exact endsWith_withErr s .badCommand
  · rw [exec_salsaXor_of_no_cipher (Nat.not_lt.mp hlen) hc]; exact endsWith_withErr s .noCipher
  · have hvalid : s.cipher.cvalid = true := Bool.eq_true_of_not_eq_false hc
    rcases Nat.eq_zero_or_pos len.toNat with h0 | h1
    · rw [exec_salsaXor_of_empty hvalid h0]; exact endsWith_withErr s .ok
    · rw [exec_salsaXor_of_window (Nat.not_lt.mp hlen) hvalid h1]; exact endsWith_ok_of_err_eq_zero s rfl

/-- R200, R202: every command ends with the code of its first failing check. -/
theorem exec_endsWith (i : Instr) (s : State) : EndsWith s (resultCode i s) (exec i s) := by
  cases i with
  | nop => exact endsWith_withErr s .ok
  | rmdInit => exact endsWith_ok_of_err_eq_zero s rfl
  | rmdCompress => rw [exec_rmdCompress]; exact endsWith_ok_of_err_eq_zero s rfl
  | salsaInit klen nlen => exact exec_salsaInit_endsWith klen nlen s
  | salsaSeek => exact exec_salsaSeek_endsWith s
  | salsaXor len => exact exec_salsaXor_endsWith len s

/-! ### The code of a command word -/

theorem execute_of_decode {v : Word} {i : Instr} (h : decode v = .ok i) (s : State) : execute v s = exec i s := by
  rw [execute, h]

/-- R81: a command word ends with some code, whether it decodes or not. -/
theorem exists_execute_endsWith (v : Word) (s : State) : ∃ c, EndsWith s c (execute v s) := by
  by_cases hd : ∃ i, decode v = .ok i
  · obtain ⟨i, hi⟩ := hd
    exact ⟨resultCode i s, execute_of_decode hi s ▸ exec_endsWith i s⟩
  · exact ⟨.badCommand, execute_of_decode_ne_ok (not_exists.mp hd) s ▸ endsWith_withErr s .badCommand⟩

/-- Settles O23: a command word always ends with a code, which the CMD write acknowledges, and by the way it ends a code
other than 0 is the only change. -/
theorem commandErrorsArePrecise : Obligations.CommandErrorsArePrecise := by
  intro v s
  obtain ⟨c, t, hexec, herr, hframe⟩ := exists_execute_endsWith v s
  refine ⟨t, by rw [busAccess, busWrite_cmd, hexec, andThen_next], hexec, fun hne => ?_⟩
  have hc : c ≠ .ok := by
    rintro rfl
    exact hne herr
  rw [hframe hc]
  rfl

/-- R203's order read off the fields of a word that decodes, as the obligation spells it. -/
def firstApplicableCode (v : Word) (s : State) : Nat :=
  let op := (opField v).toNat
  let klen := (klenField v).toNat
  let nlen := (nlenField v).toNat
  if (op = 0x11 ∨ op = 0x12) ∧ s.cipher.cvalid = false then 4
  else if op = 0x10 ∧ klen ≠ 16 ∧ klen ≠ 32 then 1
  else if op = 0x10 ∧ nlen ≠ 8 then 2
  else if op = 0x10 ∧ (s.staging.rounds.toInt ≤ 0 ∨ s.staging.rounds.toInt % 2 ≠ 0) then 3
  else 0

/-- R203: the conditions of R200's codes are shared out by opcode, so the checks of the command that a word decodes to come
in R203's order. -/
theorem toNat_bits_resultCode {v : Word} {i : Instr} (h : decode v = .ok i) (s : State) :
    (resultCode i s).bits.toNat = firstApplicableCode v s := by
  obtain ⟨hop, -, -⟩ := (meets_row_iff v i).mp (decode_row h)
  simp only [firstApplicableCode, hop]
  cases i with
  | nop | rmdInit | rmdCompress => simp [resultCode, opField, rowMatch]
  | salsaSeek => simp [resultCode, opField, rowMatch, apply_ite ErrCode.bits, apply_ite BitVec.toNat]
  | salsaInit klen nlen =>
    obtain ⟨rfl, rfl⟩ : klen = klenField v ∧ nlen = nlenField v := by simpa using decode_fields h
    simp [resultCode, opField, rowMatch, apply_ite ErrCode.bits, apply_ite BitVec.toNat]
  | salsaXor len =>
    have hlen : len.toNat ≤ 64 := by simpa [Instr.WellFormed, Instr.wellFormed] using decode_wellFormed h
    simp [resultCode, opField, rowMatch, Nat.not_lt.mpr hlen, apply_ite ErrCode.bits, apply_ite BitVec.toNat]

/-- Settles O24: a word that decodes ends with the code of its command, which R203's order gives too; any other word ends
as BAD_COMMAND. -/
theorem errorCodesInPriorityOrder : Obligations.ErrorCodesInPriorityOrder := by
  intro v s
  by_cases hd : ∃ i, decode v = .ok i
  · obtain ⟨i, hi⟩ := hd
    obtain ⟨t, hexec, herr, -⟩ := exec_endsWith i s
    refine ⟨t, (execute_of_decode hi s).trans hexec, fun hnone => absurd hi (hnone i), fun _ => ?_⟩
    rw [herr]
    exact toNat_bits_resultCode hi s
  · exact ⟨_, execute_of_decode_ne_ok (not_exists.mp hd) s, fun _ => rfl, fun h => absurd h hd⟩

end Sys2Proof.Machine
end

section
/-! PROOFS. Reset (70_reset_and_hazards.md R230): the step that serves the reset signal, and the values it leaves. -/

namespace Sys2Proof.Machine

/-- R230: the step that serves the reset signal takes it off the queue and resets the block. -/
theorem step_of_pending_reset {s : State} {rest : List BusEvent} (h : s.pending = .reset :: rest) :
    step s = .next (resetBlock (s.withPending rest)) := by
  simp only [step, serveNext, h, serveEvent]

/-- A block at reset is one that the reset signal leaves as it is. -/
theorem resetBlock_reset : resetBlock State.reset = State.reset := rfl

/-- Settles O38: the reset signal puts every register at its value of R32 whatever the state, and `State.reset` is the state
it makes of itself. -/
theorem resetEstablishesResetValues : Obligations.ResetEstablishesResetValues := by
  unfold Obligations.ResetEstablishesResetValues
  intro atReset
  have hreset (s : State) : atReset (resetBlock s) :=
    ⟨resetBlock_chain s, resetBlock_mblk s, resetBlock_staging s, resetBlock_cipher s, resetBlock_ctr s,
      resetBlock_din s, resetBlock_dout s, resetBlock_err s⟩
  exact ⟨resetBlock_reset ▸ hreset State.reset, fun s rest h =>
    ⟨resetBlock (s.withPending rest), step_of_pending_reset h, hreset _⟩⟩

end Sys2Proof.Machine
end

section
/-! PROOFS. Decoding and encoding are inverse to one another (30_encoding.md R80 to R84), and the rows of R83 are told apart
by their opcode. -/

namespace Sys2Proof

open Sys2Proof.Laws

/-! ### Decoding an encoded command -/

/-- R82, R83: a command's word meets the command's row, and its fields are the command's operands. -/
theorem encode_meets_row (i : Instr) : EncodingMeetsRow.Statement i := by
  cases i with
  | nop => exact EncodingMeetsRow.nop
  | rmdInit => exact EncodingMeetsRow.rmdInit
  | rmdCompress => exact EncodingMeetsRow.rmdCompress
  | salsaInit klen nlen => exact EncodingMeetsRow.salsaInit klen nlen
  | salsaSeek => exact EncodingMeetsRow.salsaSeek
  | salsaXor len => exact EncodingMeetsRow.salsaXor len

theorem decode_encode_nop : decode (encode .nop) = .ok .nop := decode_zero

theorem decode_encode_salsaInit (klen : BitVec 6) (nlen : BitVec 4) :
    decode (encode (.salsaInit klen nlen)) = .ok (.salsaInit klen nlen) := by
  obtain ⟨hrow, hklen, hnlen⟩ := encode_meets_row (.salsaInit klen nlen)
  rw [decode_of_meets_salsaInit_row hrow, hklen, hnlen]

theorem decode_encode_salsaXor {len : BitVec 7} (hlen : len.toNat ≤ 64) :
    decode (encode (.salsaXor len)) = .ok (.salsaXor len) := by
  obtain ⟨hrow, hfield⟩ := encode_meets_row (.salsaXor len)
  rw [decode_of_meets_salsaXor_row hrow (hfield.symm ▸ hlen), hfield]

/-- Settles O3: the commands without fields are one word each; the word of the others meets its row with the command's own
fields, and a row decodes to its command with the fields of the word. -/
theorem decodeOfEncode : Obligations.DecodeOfEncode := by
  intro i hwf
  cases i with
  | nop => exact decode_encode_nop
  | rmdInit => exact Machine.decode_encode_rmdInit
  | rmdCompress => exact Machine.decode_encode_rmdCompress
  | salsaInit klen nlen => exact decode_encode_salsaInit klen nlen
  | salsaSeek => exact decode_encode_salsaSeek
  | salsaXor len => exact decode_encode_salsaXor (of_decide_eq_true hwf)

/-! ### Encoding a decoded word -/

/-- The fields of the word are the command's operands (R82). -/
def CarriesFields (v : Word) : Instr → Prop
  | .salsaInit klen nlen => klenField v = klen ∧ nlenField v = nlen
  | .salsaXor len => lenField v = len
  | .nop | .rmdInit | .rmdCompress | .salsaSeek => True

theorem encode_carriesFields (i : Instr) : CarriesFields (encode i) i := by
  have h := (encode_meets_row i).2
  cases i <;> exact h

theorem decode_carriesFields {v : Word} {i : Instr} (h : decode v = .ok i) : CarriesFields v i := by
  have hfields := decode_fields h
  cases i <;> simp_all [CarriesFields]

/-- A row and the operands of its command fix the word: every other bit is the row's (R80, R83). -/
theorem eq_of_meets_row {v w : Word} {i : Instr} (hv : v &&& rowMask i = rowMatch i) (hw : w &&& rowMask i = rowMatch i)
    (hfv : CarriesFields v i) (hfw : CarriesFields w i) : v = w := by
  obtain ⟨hopv, ⟨h15v, h22v, h23v, htopv⟩, hzv⟩ := (meets_row_iff v i).mp hv
  obtain ⟨hopw, ⟨h15w, h22w, h23w, htopw⟩, hzw⟩ := (meets_row_iff w i).mp hw
  rw [word_eq_iff_fields]
  cases i <;> simp_all [CarriesFields, UnusedFieldsZero]

/-- Settles O4: the word and the encoding of its command meet the same row with the same fields, which leaves no bit open. -/
theorem encodeOfDecode : Obligations.EncodeOfDecode := fun _ i h =>
  ⟨decode_wellFormed h,
    eq_of_meets_row (encode_meets_row i).1 (decode_row h) (encode_carriesFields i) (decode_carriesFields h)⟩

/-! ### The rows -/

section
variable {i : Instr}

theorem eq_nop_iff_opField : i = .nop ↔ opField (rowMatch i) = 0x00#8 :=
  ⟨by rintro rfl; rfl, eq_nop_of_opField_rowMatch⟩

theorem eq_rmdInit_iff_opField : i = .rmdInit ↔ opField (rowMatch i) = 0x01#8 := by
  cases i <;> simp [opField, rowMatch]

theorem eq_rmdCompress_iff_opField : i = .rmdCompress ↔ opField (rowMatch i) = 0x02#8 := by
  cases i <;> simp [opField, rowMatch]

theorem exists_eq_salsaInit_iff_opField : (∃ k n, i = .salsaInit k n) ↔ opField (rowMatch i) = 0x10#8 :=
  ⟨by rintro ⟨k, n, rfl⟩; rfl, exists_eq_salsaInit_of_opField_rowMatch⟩

theorem eq_salsaSeek_iff_opField : i = .salsaSeek ↔ opField (rowMatch i) = 0x11#8 := by
  cases i <;> simp [opField, rowMatch]

theorem exists_eq_salsaXor_iff_opField : (∃ l, i = .salsaXor l) ↔ opField (rowMatch i) = 0x12#8 :=
  ⟨by rintro ⟨l, rfl⟩; rfl, exists_eq_salsaXor_of_opField_rowMatch⟩

end

/-- The row of a command without fields has one word, the command's. -/
theorem meets_full_row_iff {v : Word} {i : Instr} (hmask : rowMask i = 0xFFFFFFFF#32)
    (hdecode : decode (rowMatch i) = .ok i) : v &&& 0xFFFFFFFF#32 = rowMatch i ↔ decode v = .ok i := by
  refine ⟨fun h => ?_, fun h => hmask ▸ decode_row h⟩
  have hv : v &&& 0xFFFFFFFF#32 = v := BitVec.and_allOnes
  rw [← hv, h, hdecode]

/-- R84: the refusal for `LEN` is that of the words of SALSA_XOR's row with `LEN` above 64. -/
theorem decode_eq_lenOutOfRange_iff (v : Word) :
    decode v = .error .lenOutOfRange ↔ v &&& 0xFFFF80FF#32 = 0x00000012#32 ∧ 64 < (lenField v).toNat := by
  constructor
  · intro h
    rw [decode_eq] at h
    split_ifs at h with _ _ _ _ _ hrow hlen
    · exact ⟨hrow, hlen⟩
    · unfold noRowReason at h
      split_ifs at h <;> cases h
  · rintro ⟨hrow, hlen⟩
    cases hd : decode v with
    | ok i => exact absurd hd (decode_ne_ok_of_lenField_gt hrow hlen i)
    | error e =>
      rw [decode_eq] at hd
      split_ifs at hd
      exact hd.symm

/-- A word meets SALSA_XOR's row when it decodes to that command or is refused for its `LEN`. -/
theorem meets_salsaXor_row_iff (v : Word) :
    v &&& 0xFFFF80FF#32 = 0x00000012#32 ↔
      decode v = .ok (.salsaXor (lenField v)) ∨ decode v = .error .lenOutOfRange := by
  constructor
  · intro hrow
    rcases Nat.lt_or_ge 64 (lenField v).toNat with hlen | hlen
    · exact .inr ((decode_eq_lenOutOfRange_iff v).mpr ⟨hrow, hlen⟩)
    · exact .inl (decode_of_meets_salsaXor_row hrow hlen)
  · rintro (h | h)
    · exact decode_row h
    · exact ((decode_eq_lenOutOfRange_iff v).mp h).1

/-- Settles O5: a row fixes the opcode, which tells the commands apart; and each row is the set of words that decode to its
command, up to the `LEN` of SALSA_XOR. -/
theorem rowsPairwiseDisjoint : Obligations.RowsPairwiseDisjoint := by
  refine ⟨fun v i j hi hj => ?_, fun v => ⟨meets_full_row_iff (i := .nop) rfl decode_encode_nop,
    meets_full_row_iff (i := .rmdInit) rfl Machine.decode_encode_rmdInit,
    meets_full_row_iff (i := .rmdCompress) rfl Machine.decode_encode_rmdCompress,
    ⟨decode_of_meets_salsaInit_row, decode_row⟩,
    meets_full_row_iff (i := .salsaSeek) rfl decode_encode_salsaSeek, meets_salsaXor_row_iff v⟩⟩
  have hop : opField (rowMatch i) = opField (rowMatch j) := opField_rowMatch_eq hi hj
  simp only [eq_nop_iff_opField, eq_rmdInit_iff_opField, eq_rmdCompress_iff_opField, eq_salsaSeek_iff_opField,
    exists_eq_salsaInit_iff_opField, exists_eq_salsaXor_iff_opField, hop, and_self]

end Sys2Proof
end

section
/-! PROOFS. Accesses and steps (20_memory.md R61, 60_exceptions.md R216): an access always answers, neither reads nor writes
the bus side, and takes one step, so that a queue of accesses is a program. -/

namespace Sys2Proof.Machine

/-! ### Every access answers -/

/-- R216: an access always answers. -/
theorem exists_busAccess_next (a : BusAccess) (s : State) : ∃ r t, busAccess a s = .next (r, t) := by
  cases a with
  | read off width =>
    rcases busRead_cases off width s with ⟨_, h⟩ | ⟨_, _, _, _, h⟩
    · exact ⟨_, _, h⟩
    · exact ⟨_, _, h⟩
  | write off width v =>
    rcases busWrite_cases off width v s with ⟨_, h⟩ | ⟨_, h⟩ | ⟨_, _, _, _, _, h⟩
    · exact ⟨_, _, h⟩
    · obtain ⟨c, t, hexec, -⟩ := exists_execute_endsWith v s
      exact ⟨.ack, t, by rw [busAccess, h, hexec, andThen_next]⟩
    · exact ⟨_, _, h⟩

/-- A host program always answers, one response for each access. -/
theorem exists_runProgram_next (p : List BusAccess) (s : State) :
    ∃ rs t, runProgram p s = .next (rs, t) ∧ rs.length = p.length := by
  induction p generalizing s with
  | nil => exact ⟨[], s, rfl, rfl⟩
  | cons a p ih =>
    obtain ⟨r, u, ha⟩ := exists_busAccess_next a s
    obtain ⟨rs, t, hp, hlen⟩ := ih u
    exact ⟨r :: rs, t, runProgram_cons_next ha hp, congrArg Nat.succ hlen⟩

/-! ### The bus side -/

/-- The state with another bus side. -/
def State.withBus (s : State) (p : List BusEvent) (q : List BusResponse) : State :=
  { s with pending := p, responses := q }

section
variable (s : State) (p p' : List BusEvent) (q q' : List BusResponse)

theorem State.withBus_self : s.withBus s.pending s.responses = s := rfl
theorem State.withBus_withBus : (s.withBus p q).withBus p' q' = s.withBus p' q' := rfl

end

/-- Executing a word of CMD neither reads nor writes the bus side. -/
theorem execute_withBus {v : Word} {s t : State} (h : execute v s = .next t) (p : List BusEvent)
    (q : List BusResponse) : execute v (s.withBus p q) = .next (t.withBus p q) := by
  rcases execute_cases h with ⟨i, hi, hx⟩ | ⟨e, he, rfl⟩
  · rw [execute_of_decode hi]
    cases i with
    | nop => rw [execNop_cases hx]; rfl
    | rmdInit => rw [execRmdInit_cases hx]; rfl
    | rmdCompress => rw [execRmdCompress_cases hx]; rfl
    | salsaInit klen nlen =>
      rcases execSalsaInit_cases hx with ⟨hk, rfl⟩ | ⟨hk, hn, rfl⟩ | ⟨hk, hn, hr, rfl⟩ | ⟨hk, hn, hr, rfl⟩
      · exact exec_salsaInit_of_bad_key hk
      · exact exec_salsaInit_of_bad_nonce hk hn
      · exact exec_salsaInit_of_bad_rounds hk hn hr
      · exact exec_salsaInit_of_ok hk hn hr
    | salsaSeek =>
      rcases execSalsaSeek_cases hx with ⟨hc, rfl⟩ | ⟨hc, rfl⟩
      · exact exec_salsaSeek_of_no_cipher hc
      · exact exec_salsaSeek_of_cipher hc
    | salsaXor len =>
      rcases execSalsaXor_cases hx with ⟨hl, rfl⟩ | ⟨hl, hc, rfl⟩ | ⟨hl, hc, rfl⟩ | ⟨hl1, hl, hc, rfl⟩
      · exact exec_salsaXor_of_bad_len hl _
      · exact exec_salsaXor_of_no_cipher hl hc
      · exact exec_salsaXor_of_empty hc hl
      · exact exec_salsaXor_of_window hl hc hl1
  · simp only [execute, he]
    rfl

theorem loadReg_withBus (s : State) (r : Reg) (p : List BusEvent) (q : List BusResponse) :
    loadReg (s.withBus p q) r = loadReg s r := by
  cases r <;> rfl

theorem storeReg_withBus {s t : State} {v : Word} {r : Reg} (h : storeReg s v r = some t) (p : List BusEvent)
    (q : List BusResponse) : storeReg (s.withBus p q) v r = some (t.withBus p q) := by
  cases r <;> cases h <;> rfl

/-! ### Accesses by their target -/

section
variable {off : BitVec 9} {width : Nat} {v : Word} {r : Reg} {s t : State}

theorem busRead_of_not_permitted (h : readTarget off width = none) (s : State) :
    busAccess (.read off width) s = .next (.busError off, s) := by
  simp [busAccess, busRead, h, busErrorOn]

theorem busRead_of_target (h : readTarget off width = some r) (hv : loadReg s r = some v) :
    busAccess (.read off width) s = .next (.value v, s) := by
  simp [busAccess, busRead, h, hv]

theorem busWrite_of_not_permitted (h : writeTarget off width = none) (v : Word) (s : State) :
    busAccess (.write off width v) s = .next (.busError off, s) := by
  simp [busAccess, busWrite, h, busErrorOn]

theorem busWrite_of_target (h : writeTarget off width = some r) (ht : storeReg s v r = some t) :
    busAccess (.write off width v) s = .next (.ack, t) := by
  obtain ⟨rfl, rfl, -⟩ := writeTarget_eq_some.mp h
  exact busWrite_offset s r v ht

theorem busWrite_of_execute (h : writeTarget off width = some .cmd) (ht : execute v s = .next t) :
    busAccess (.write off width v) s = .next (.ack, t) := by
  simp [busAccess, busWrite, h, ht]

/-- R56: a read changes nothing. -/
theorem exists_busRead_next (off : BitVec 9) (width : Nat) (s : State) :
    ∃ r, busAccess (.read off width) s = .next (r, s) := by
  rcases busRead_cases off width s with ⟨_, h⟩ | ⟨_, _, _, _, h⟩
  · exact ⟨_, h⟩
  · exact ⟨_, h⟩

end

/-- An access neither reads nor writes the bus side. -/
theorem busAccess_withBus {a : BusAccess} {s t : State} {r : BusResponse} (h : busAccess a s = .next (r, t))
    (p : List BusEvent) (q : List BusResponse) : busAccess a (s.withBus p q) = .next (r, t.withBus p q) := by
  cases a with
  | read off width =>
    rcases busRead_cases off width s with ⟨hr, h'⟩ | ⟨reg, v, hr, hv, h'⟩ <;> cases h'.symm.trans h
    · exact busRead_of_not_permitted hr _
    · exact busRead_of_target hr ((loadReg_withBus s reg p q).trans hv)
  | write off width v =>
    rcases busWrite_cases off width v s with ⟨hw, h'⟩ | ⟨hw, h'⟩ | ⟨reg, u, hw, -, hu, h'⟩
    · cases h'.symm.trans h
      exact busWrite_of_not_permitted hw v _
    · obtain ⟨u, hu, hnext⟩ := andThen_eq_next (h'.symm.trans h)
      cases hnext
      exact busWrite_of_execute hw (execute_withBus hu p q)
    · cases h'.symm.trans h
      exact busWrite_of_target hw (storeReg_withBus hu p q)

/-- An access leaves the bus side as it is. -/
theorem busAccess_keeps_bus {a : BusAccess} {s t : State} {r : BusResponse} (h : busAccess a s = .next (r, t)) :
    t.pending = s.pending ∧ t.responses = s.responses := by
  have hbus := busAccess_withBus h s.pending s.responses
  rw [State.withBus_self, h] at hbus
  simp only [Host.Outcome.next.injEq, Prod.mk.injEq, true_and] at hbus
  rw [hbus]
  exact ⟨rfl, rfl⟩

/-! ### Steps that serve an access -/

section
variable {a : BusAccess} {s t : State} {rest : List BusEvent}

theorem step_of_pending_access {r : BusResponse} (h : s.pending = .access a :: rest)
    (ha : busAccess a (s.withPending rest) = .next (r, t)) : step s = .next (t.respond r) := by
  simp only [step, serveNext, h, serveEvent, serveAccess, ha, andThen_next]

/-- A step with an access delivered first is that access, its response recorded. -/
theorem step_access_cases (h : s.pending = .access a :: rest) (hstep : step s = .next t) :
    ∃ r u, busAccess a (s.withPending rest) = .next (r, u) ∧ t = u.respond r := by
  obtain ⟨r, u, ha⟩ := exists_busAccess_next a (s.withPending rest)
  exact ⟨r, u, ha, Host.Outcome.next.inj (hstep.symm.trans (step_of_pending_access h ha))⟩

end

/-- Settles O35: an access always answers, leaves the bus side to the step, and the step records its response. -/
theorem everyAccessCompletes : Obligations.EveryAccessCompletes := by
  intro s a rest h
  obtain ⟨r, u, ha⟩ := exists_busAccess_next a (s.withPending rest)
  obtain ⟨hpending, hresponses⟩ := busAccess_keeps_bus ha
  exact ⟨u.respond r, r, step_of_pending_access h ha, hpending, congrArg (· ++ [r]) hresponses⟩

/-! ### A queue of accesses is a program -/

/-- A run of a machine begins with its step. -/
theorem run_succ_of_step {M : Host.Core} {s t : M.State} (h : M.step s = .next t) (n : Nat) :
    M.run (n + 1) s = M.run n t := by
  simp only [Host.Core.run, h]

theorem core_run_succ_of_step {s t : State} (h : step s = .next t) (n : Nat) :
    Host.Core.run core (n + 1) s = Host.Core.run core n t :=
  run_succ_of_step (M := core) (s := s) (t := t) h n

/-- R61: whatever has been answered before, stepping through a queue of accesses does to the registers what the program
does, and records its responses. -/
theorem exists_run_queue (p : List BusAccess) (s : State) :
    ∃ rs t, runProgram p s = .next (rs, t) ∧ rs.length = p.length ∧
      ∀ q, Host.Core.run core p.length (s.withBus (p.map .access) q) = .next (t.withBus [] (q ++ rs)) := by
  induction p generalizing s with
  | nil => exact ⟨[], s, rfl, rfl, fun q => by rw [List.append_nil]; rfl⟩
  | cons a p ih =>
    obtain ⟨r, u, ha⟩ := exists_busAccess_next a s
    obtain ⟨rs, t, hp, hlen, hrun⟩ := ih u
    refine ⟨r :: rs, t, runProgram_cons_next ha hp, congrArg Nat.succ hlen, fun q => ?_⟩
    have hstep : step (s.withBus ((a :: p).map .access) q) = .next (u.withBus (p.map .access) (q ++ [r])) :=
      step_of_pending_access (s := s.withBus _ q) rfl (busAccess_withBus ha (p.map .access) q)
    have hrest := hrun (q ++ [r])
    rw [List.append_assoc, List.singleton_append] at hrest
    exact (core_run_succ_of_step hstep p.length).trans hrest

/-- Settles O36: from the state with its own queue and responses, which the program run beside it does not see. -/
theorem stepsPerformAccessesInOrder : Obligations.StepsPerformAccessesInOrder := by
  intro p s hpending
  obtain ⟨rs, t, hp, hlen, hrun⟩ := exists_run_queue p (s.withBus [] s.responses)
  have hqueue := hrun s.responses
  rw [State.withBus_withBus, ← hpending, State.withBus_self] at hqueue
  exact ⟨rs, t, hp, hqueue, hlen⟩

end Sys2Proof.Machine
end

section
/-! PROOFS. Accesses that start no command (10_state.md R30, 20_memory.md R56, R57, R62): they keep the counter
and ERR, and reads keep everything. -/

namespace Sys2Proof.Machine

/-- R55: the one access that starts a command is the 32-bit write of CMD. -/
theorem startsCommand_write_cmd (v : Word) : (BusAccess.write 0x000#9 32 v).startsCommand = true := by
  have htarget : writeTarget 0x000#9 32 = some .cmd := by decide
  simp [BusAccess.startsCommand, htarget]

/-- R26, R30: without a command the counter and ERR keep their values. -/
theorem busAccess_keeps_of_no_command {a : BusAccess} {s t : State} {r : BusResponse}
    (ha : ∀ v, a ≠ .write 0x000#9 32 v) (h : busAccess a s = .next (r, t)) : t.ctr = s.ctr ∧ t.err = s.err := by
  rcases busAccess_cases h with rfl | ⟨v, hcmd, -⟩ | ⟨reg, v, -, -, -, hstore⟩
  · exact ⟨rfl, rfl⟩
  · exact absurd hcmd (ha v)
  · obtain ⟨-, hctr, -, herr, -⟩ := storeReg_frame hstore
    exact ⟨hctr, herr⟩

/-- Settles O27: the step is the access, which keeps ERR, and a response recorded. -/
theorem onlyCommandsWriteErr : Obligations.OnlyCommandsWriteErr := by
  intro s t a rest hpending ha hstep
  obtain ⟨r, u, hu, rfl⟩ := step_access_cases hpending hstep
  exact (busAccess_keeps_of_no_command ha hu).2

/-- R57: accesses that start no command keep the counter. -/
theorem exists_runProgram_next_of_no_command (q : List BusAccess) (s : State)
    (hq : ∀ a ∈ q, a.startsCommand = false) :
    ∃ rs t, runProgram q s = .next (rs, t) ∧ rs.length = q.length ∧ t.ctr = s.ctr := by
  induction q generalizing s with
  | nil => exact ⟨[], s, rfl, rfl, rfl⟩
  | cons a q ih =>
    obtain ⟨hhead, htail⟩ := List.forall_mem_cons.mp hq
    obtain ⟨r, u, ha⟩ := exists_busAccess_next a s
    obtain ⟨rs, t, hp, hlen, hctr⟩ := ih u htail
    have hcmd : ∀ v, a ≠ .write 0x000#9 32 v := by
      rintro v rfl
      exact absurd (startsCommand_write_cmd v) (by simp [hhead])
    exact ⟨r :: rs, t, runProgram_cons_next ha hp, congrArg Nat.succ hlen,
      hctr.trans (busAccess_keeps_of_no_command hcmd ha).1⟩

/-- Settles O42: the program is cut at the two reads; between them the counter keeps its value, of which the reads answer
the two halves. -/
theorem counterHalvesAgree : Obligations.CounterHalvesAgree := by
  intro p q s hq
  obtain ⟨rsp, s1, hp, hlenp⟩ := exists_runProgram_next p s
  obtain ⟨rsq, s2, hq, hlenq, hctr⟩ := exists_runProgram_next_of_no_command q s1 hq
  have hlow := runProgram_cons_next (busAccess_rd s1 .ctrLo rfl) hq
  have hhigh := runProgram_cons_next (busAccess_rd s2 .ctrHi rfl) (runProgram_nil s2)
  refine ⟨_, s2, ctrLo s1, ctrHi s2, runProgram_append_next (runProgram_append_next hp hlow) hhigh, ?_, ?_, ?_⟩
  · simp [← hlenp]
  · simp [← hlenp, ← hlenq, Nat.add_assoc, Nat.add_comm 1]
  · rw [ctrLo, ctrHi, ← hctr, ctr_high_append_low]

/-- Settles O43: along the interleaving, the first host's accesses meet the states they meet alone, since each of the other
host's leaves the state as it is. -/
theorem readingHostDoesNotDisturb : Obligations.ReadingHostDoesNotDisturb := by
  intro xs ys zs s hinter hreads
  induction hinter generalizing s with
  | nil => exact ⟨[], [], s, rfl, rfl⟩
  | @left x _ _ _ _ ih =>
    obtain ⟨r, u, hx⟩ := exists_busAccess_next x s
    obtain ⟨rs, rs', t, hxs, hzs⟩ := ih u hreads
    exact ⟨r :: rs, r :: rs', t, runProgram_cons_next hx hxs, runProgram_cons_next hx hzs⟩
  | right _ ih =>
    obtain ⟨⟨off, width, rfl⟩, htail⟩ := List.forall_mem_cons.mp hreads
    obtain ⟨r, hy⟩ := exists_busRead_next off width s
    obtain ⟨rs, rs', t, hxs, hzs⟩ := ih s htail
    exact ⟨rs, r :: rs', t, hxs, runProgram_cons_next hy hzs⟩

end Sys2Proof.Machine
end

section
/-! PROOFS. The constructed cipher and its counter (10_state.md R25, R26), and the invariant of the block (R25 to R27,
60_exceptions.md R200). -/

namespace Sys2Proof.Machine

/-! ### The constructed cipher and its counter -/

/-- R25, R26: what a command can do to the constructed cipher and its counter. -/
theorem exec_cipher_ctr_cases {i : Instr} {s t : State} (h : exec i s = .next t) :
    (t.cipher = s.cipher ∧ t.ctr = s.ctr) ∨
    (t.err = 0#4 ∧
      (((∃ k n, i = .salsaInit k n) ∧ t.cipher.cvalid = true ∧ t.ctr = ctrin s) ∨
       (i = .salsaSeek ∧ t.cipher = s.cipher ∧ t.ctr = ctrin s) ∨
       (∃ l, i = .salsaXor l ∧ 1 ≤ l.toNat ∧ t.cipher = s.cipher ∧ t.ctr = s.ctr + 1#64))) := by
  cases i with
  | nop => rw [execNop_cases h]; exact .inl ⟨rfl, rfl⟩
  | rmdInit => rw [execRmdInit_cases h]; exact .inl ⟨rfl, rfl⟩
  | rmdCompress => rw [execRmdCompress_cases h]; exact .inl ⟨rfl, rfl⟩
  | salsaInit klen nlen =>
    rcases execSalsaInit_cases h with ⟨_, rfl⟩ | ⟨_, _, rfl⟩ | ⟨_, _, _, rfl⟩ | ⟨_, _, _, rfl⟩
    · exact .inl ⟨rfl, rfl⟩
    · exact .inl ⟨rfl, rfl⟩
    · exact .inl ⟨rfl, rfl⟩
    · exact .inr ⟨rfl, .inl ⟨⟨klen, nlen, rfl⟩, rfl, rfl⟩⟩
  | salsaSeek =>
    rcases execSalsaSeek_cases h with ⟨_, rfl⟩ | ⟨_, rfl⟩
    · exact .inl ⟨rfl, rfl⟩
    · exact .inr ⟨rfl, .inr (.inl ⟨rfl, rfl, rfl⟩)⟩
  | salsaXor len =>
    rcases execSalsaXor_cases h with ⟨_, rfl⟩ | ⟨_, _, rfl⟩ | ⟨_, _, rfl⟩ | ⟨hpos, _, _, rfl⟩
    · exact .inl ⟨rfl, rfl⟩
    · exact .inl ⟨rfl, rfl⟩
    · exact .inl ⟨rfl, rfl⟩
    · exact .inr ⟨rfl, .inr (.inr ⟨len, rfl, hpos, rfl, rfl⟩)⟩

/-- Settles O26: of the ways a step can go, only a command word that decodes and completes touches cipher or counter. -/
theorem cipherAndCounterLaw : Obligations.CipherAndCounterLaw := by
  intro s t hstep
  rcases step_cases hstep with ⟨_, rfl⟩ | ⟨rest, hpending, _⟩ | ⟨a, rest, r, u, hpending, ha, rfl⟩
  · exact .inl ⟨rfl, rfl⟩
  · exact .inr (.inl ⟨rest, hpending⟩)
  · rcases busAccess_cases ha with rfl | ⟨v, rfl, -, hexec⟩ | ⟨reg, v, -, -, -, hstore⟩
    · exact .inl ⟨rfl, rfl⟩
    · rcases execute_cases hexec with ⟨i, hi, hx⟩ | ⟨_, _, rfl⟩
      · rcases exec_cipher_ctr_cases hx with hkept | ⟨herr, hchange⟩
        · exact .inl hkept
        · exact .inr (.inr ⟨rest, v, i, hpending, hi, herr, hchange⟩)
      · exact .inl ⟨rfl, rfl⟩
    · obtain ⟨hcipher, hctr, -⟩ := storeReg_frame hstore
      exact .inl ⟨hcipher, hctr⟩

/-! ### The block's invariant -/

/-- The invariant speaks of the cipher, its counter, DOUT and ERR only. -/
theorem Inv.of_same {s t : State} (h : Inv s) (hcipher : t.cipher = s.cipher) (hctr : t.ctr = s.ctr)
    (hdout : t.dout = s.dout) (herr : t.err.toNat ≤ 5) : Inv t where
  constructed hv := hcipher ▸ h.constructed (hcipher ▸ hv)
  unconstructed hv :=
    have hu := h.unconstructed (hcipher ▸ hv)
    ⟨hcipher.trans hu.cipher, hctr.trans hu.ctr, hdout.trans hu.dout⟩
  err_le := herr

/-- While `CVALID = 1` the invariant asks nothing of the counter and DOUT. -/
theorem inv_of_constructedInv {t : State} (hv : t.cipher.cvalid = true) (h : ConstructedInv t.cipher)
    (herr : t.err.toNat ≤ 5) : Inv t where
  constructed _ := h
  unconstructed hnot := absurd hv (by simp [hnot])
  err_le := herr

/-- A command that only reports a code keeps the invariant. -/
theorem Inv.withErr {s : State} (h : Inv s) (c : ErrCode) : Inv (s.withErr c) :=
  h.of_same rfl rfl rfl c.bits_le

theorem roundsOk_eq_true_iff {r : Int} : roundsOk r = true ↔ 0 < r ∧ r % 2 = 0 := by
  simp [roundsOk]

/-- R151: a 16-byte key is doubled. -/
theorem expandKey_false_doubled (key : Vector Word 8) (i : Fin 4) :
    (expandKey false key)[4 + i.val] = (expandKey false key)[i.val] := by
  simp [expandKey]

/-- R25, R170: the cipher that a successful SALSA_INIT constructs. -/
theorem constructedInv_constructed (key32 : Bool) {g : Staging} (h : roundsOk g.rounds.toInt = true) :
    ConstructedInv (constructed key32 g) where
  rounds_pos := (roundsOk_eq_true_iff.mp h).1
  rounds_even := (roundsOk_eq_true_iff.mp h).2
  constants := rfl
  doubled := by
    rintro (rfl : key32 = false) i
    exact expandKey_false_doubled g.key i

theorem exec_keeps_inv {i : Instr} {s t : State} (hs : Inv s) (h : exec i s = .next t) : Inv t := by
  cases i with
  | nop => rw [execNop_cases h]; exact hs.withErr .ok
  | rmdInit => rw [execRmdInit_cases h]; exact hs.of_same rfl rfl rfl (Nat.zero_le 5)
  | rmdCompress => rw [execRmdCompress_cases h]; exact hs.of_same rfl rfl rfl (Nat.zero_le 5)
  | salsaInit klen nlen =>
    rcases execSalsaInit_cases h with ⟨_, rfl⟩ | ⟨_, _, rfl⟩ | ⟨_, _, _, rfl⟩ | ⟨_, _, hr, rfl⟩
    · exact hs.withErr .invalidKeySize
    · exact hs.withErr .invalidNonceSize
    · exact hs.withErr .invalidRounds
    · exact inv_of_constructedInv rfl (constructedInv_constructed _ hr) (Nat.zero_le 5)
  | salsaSeek =>
    rcases execSalsaSeek_cases h with ⟨_, rfl⟩ | ⟨hc, rfl⟩
    · exact hs.withErr .noCipher
    · exact inv_of_constructedInv hc (hs.constructed hc) (Nat.zero_le 5)
  | salsaXor len =>
    rcases execSalsaXor_cases h with ⟨_, rfl⟩ | ⟨_, _, rfl⟩ | ⟨_, _, rfl⟩ | ⟨_, _, hc, rfl⟩
    · exact hs.withErr .badCommand
    · exact hs.withErr .noCipher
    · exact hs.withErr .ok
    · exact inv_of_constructedInv hc (hs.constructed hc) (Nat.zero_le 5)

theorem busAccess_keeps_inv {a : BusAccess} {s t : State} {r : BusResponse} (hs : Inv s)
    (h : busAccess a s = .next (r, t)) : Inv t := by
  rcases busAccess_cases h with rfl | ⟨v, -, -, hexec⟩ | ⟨reg, v, -, -, -, hstore⟩
  · exact hs
  · rcases execute_cases hexec with ⟨i, -, hx⟩ | ⟨_, _, rfl⟩
    · exact exec_keeps_inv hs hx
    · exact hs.withErr .badCommand
  · obtain ⟨hcipher, hctr, hdout, herr, -⟩ := storeReg_frame hstore
    exact hs.of_same hcipher hctr hdout (herr ▸ hs.err_le)

/-- A block at reset has the invariant, whatever its bus side. -/
theorem inv_resetBlock (s : State) : Inv (resetBlock s) where
  constructed hv := nomatch hv
  unconstructed _ := ⟨rfl, rfl, rfl⟩
  err_le := Nat.zero_le 5

/-- Settles O41: `State.reset` is a block that the reset signal leaves as it is. -/
theorem resetHasBlockInvariant : Obligations.ResetHasBlockInvariant :=
  inv_resetBlock State.reset

/-- Settles O40: idling changes nothing, a reset establishes the invariant, and an access keeps it; the bus side plays no
part in it. -/
theorem stepKeepsBlockInvariant : Obligations.StepKeepsBlockInvariant := by
  intro s t hs hstep
  rcases step_cases hstep with ⟨_, rfl⟩ | ⟨rest, _, rfl⟩ | ⟨a, rest, r, u, _, ha, rfl⟩
  · exact hs
  · exact inv_resetBlock _
  · have hu : Inv u := busAccess_keeps_inv (hs.of_same (t := s.withPending rest) rfl rfl rfl hs.err_le) ha
    exact hu.of_same rfl rfl rfl hu.err_le

end Sys2Proof.Machine
end

section
/-! PROOFS. The register window (20_memory.md R53 to R56, 60_exceptions.md R201): which accesses are permitted, what reads
return and writes store, and the addresses of the window. -/

namespace Sys2Proof.Machine

/-! ### The permitted accesses -/

/-- R54: the offsets of the words that a host may read. -/
def ReadableOffset (o : Nat) : Prop :=
  o = 0x004 ∨ (0x010 ≤ o ∧ o ≤ 0x01C) ∨ (0x040 ≤ o ∧ o ≤ 0x0B0) ∨ o = 0x0C0 ∨ o = 0x0C4 ∨
    (0x100 ≤ o ∧ o ≤ 0x17C)

/-- R54: the offsets of the words that a host may write. -/
def WritableOffset (o : Nat) : Prop :=
  o = 0x000 ∨ (0x010 ≤ o ∧ o ≤ 0x01C) ∨ (0x040 ≤ o ∧ o ≤ 0x0B0) ∨ (0x100 ≤ o ∧ o ≤ 0x13C)

/-- R54: the readable registers among the 128 words of the window, checked offset by offset. -/
theorem regAt_readable_iff :
    ∀ {off : BitVec 9}, off.toNat % 4 = 0 →
      (((regAt off).filter Reg.readable).isSome = true ↔ ReadableOffset off.toNat) := by
  unfold ReadableOffset
  decide +kernel

/-- R54: the writable registers among the 128 words of the window, checked offset by offset. -/
theorem regAt_writable_iff :
    ∀ {off : BitVec 9}, off.toNat % 4 = 0 →
      (((regAt off).filter Reg.writable).isSome = true ↔ WritableOffset off.toNat) := by
  unfold WritableOffset
  decide +kernel

theorem permitted_read_iff (off : BitVec 9) (width : Nat) :
    permitted (.read off width) = true ↔ width = 32 ∧ off.toNat % 4 = 0 ∧ ReadableOffset off.toNat := by
  rw [← and_assoc, ← aligned32_eq_true]
  cases ha : aligned32 off width with
  | false => simp [permitted, readTarget, ha]
  | true =>
    have hread := regAt_readable_iff ((aligned32_eq_true off width).mp ha).2
    simpa [permitted, readTarget, ha] using hread

theorem permitted_write_iff (off : BitVec 9) (width : Nat) (v : Word) :
    permitted (.write off width v) = true ↔ width = 32 ∧ off.toNat % 4 = 0 ∧ WritableOffset off.toNat := by
  rw [← and_assoc, ← aligned32_eq_true]
  cases ha : aligned32 off width with
  | false => simp [permitted, writeTarget, ha]
  | true =>
    have hwrite := regAt_writable_iff ((aligned32_eq_true off width).mp ha).2
    simpa [permitted, writeTarget, ha] using hwrite

/-- Settles O28: past width and alignment, an access is permitted where the map of R54 has a register of its kind. -/
theorem permittedAccesses : Obligations.PermittedAccesses := fun off width v =>
  ⟨permitted_read_iff off width, permitted_write_iff off width v⟩

/-- R55, R201: an access that is not permitted gets the error response and changes nothing. -/
theorem busRead_of_permitted_eq_false {off : BitVec 9} {width : Nat} (h : permitted (.read off width) = false)
    (s : State) : busAccess (.read off width) s = .next (.busError off, s) :=
  busRead_of_not_permitted (by simpa [permitted] using h) s

theorem busWrite_of_permitted_eq_false {off : BitVec 9} {width : Nat} {v : Word}
    (h : permitted (.write off width v) = false) (s : State) :
    busAccess (.write off width v) s = .next (.busError off, s) :=
  busWrite_of_not_permitted (by simpa [permitted] using h) v s

/-- Settles O29: the error response leaves the state, and the step goes on with it. -/
theorem unpermittedAccessGetsBusError : Obligations.UnpermittedAccessGetsBusError := by
  refine fun s off width v => ⟨fun h => busRead_of_permitted_eq_false h s,
    fun h => busWrite_of_permitted_eq_false h s, ?_⟩
  rintro a rest (rfl | rfl) hnot hpending
  · exact step_of_pending_access hpending (busRead_of_permitted_eq_false hnot _)
  · exact step_of_pending_access hpending (busWrite_of_permitted_eq_false hnot _)

/-! ### Reading and writing registers -/

/-- Settles O30: each offset of the statement is its register's, and the value read is the register's own. -/
theorem readsReturnRegisters : Obligations.ReadsReturnRegisters := fun s =>
  ⟨busAccess_rd s (.h 0) rfl, busAccess_rd s (.h 1) rfl, busAccess_rd s (.h 2) rfl, busAccess_rd s (.h 3) rfl,
    fun i => busAccess_rd s (.mblk i) rfl, fun i => busAccess_rd s (.key i) rfl, fun i => busAccess_rd s (.nonce i) rfl,
    busAccess_rd s .ctrinLo rfl, busAccess_rd s .ctrinHi rfl, busAccess_rd s .rounds rfl,
    ⟨ctrLo s, ctrHi s, busAccess_rd s .ctrLo rfl, busAccess_rd s .ctrHi rfl, (ctr_high_append_low s.ctr).symm⟩,
    fun i => busAccess_rd s (.din i) rfl, fun i => busAccess_rd s (.dout i) rfl⟩

/-- Settles O31: each offset of the statement is its register's, and the update is the store of that register. -/
theorem writesStoreRegisters : Obligations.WritesStoreRegisters := fun s v =>
  ⟨busAccess_wr s (.h 0) v rfl, busAccess_wr s (.h 1) v rfl, busAccess_wr s (.h 2) v rfl, busAccess_wr s (.h 3) v rfl,
    fun i => busAccess_wr s (.mblk i) v rfl, fun i => busAccess_wr s (.key i) v rfl,
    fun i => busAccess_wr s (.nonce i) v rfl, busAccess_wr s .ctrinLo v rfl, busAccess_wr s .ctrinHi v rfl,
    busAccess_wr s .rounds v rfl, fun i => busAccess_wr s (.din i) v rfl⟩

/-- A store changes no read at another offset, whatever the width. -/
theorem busRead_of_storeReg_ne {s t : State} {v : Word} {r : Reg} (hstore : storeReg s v r = some t)
    {off : BitVec 9} (hoff : off ≠ r.offset) (width : Nat) :
    ∃ p, busAccess (.read off width) s = .next (p, s) ∧ busAccess (.read off width) t = .next (p, t) := by
  rcases busRead_cases off width s with ⟨hnone, h⟩ | ⟨q, w, hq, hw, h⟩
  · exact ⟨_, h, busRead_of_not_permitted hnone t⟩
  · have hne : q ≠ r := by
      rintro rfl
      exact hoff (readTarget_eq_some.mp hq).2.1
    exact ⟨_, h, busRead_of_target hq ((loadReg_storeReg_ne hstore hne).trans hw)⟩

/-- Settles O32: the write is a store, after which the register loads as written and every other one as before. -/
theorem writeReadsBackAlone : Obligations.WriteReadsBackAlone := by
  intro s off v hpermitted hcmd
  rcases busWrite_cases off 32 v s with ⟨hnone, -⟩ | ⟨htarget, -⟩ | ⟨r, t, htarget, -, hstore, hwrite⟩
  · simp [permitted, hnone] at hpermitted
  · exact absurd (writeTarget_eq_some.mp htarget).2.1 hcmd
  · obtain ⟨-, rfl, -⟩ := writeTarget_eq_some.mp htarget
    exact ⟨t, hwrite, busAccess_rd t r (loadReg_storeReg_self hstore),
      fun off' width hoff => busRead_of_storeReg_ne hstore hoff width⟩

/-! ### Host bus addresses -/

/-- Settles O34: `BASE` is a multiple of 512, so an address of the window is `BASE` and its low nine bits. -/
theorem windowAtBase : Obligations.WindowAtBase := by
  intro c addr mk s
  have hbase := c.aligned
  refine ⟨fun hlow hhigh => ?_, fun hout => ?_⟩
  · have hin : c.base ≤ addr ∧ addr < c.base + Config.windowSize := ⟨hlow, by unfold Config.windowSize; omega⟩
    have hoff : addr - c.base = addr % 512 := by omega
    refine ⟨by simp only [hostAccess, windowOffset, if_pos hin, hoff], ?_⟩
    rw [BitVec.toNat_ofNat]
    omega
  · have hnotin : ¬ (c.base ≤ addr ∧ addr < c.base + Config.windowSize) := by
      unfold Config.windowSize
      omega
    simp only [hostAccess, windowOffset, if_neg hnotin]

/-! ### Single steps -/

/-- Settles O1: the step is the write of CMD, which executes the command its word decodes to. -/
theorem stepRunsDecodedCommand : Obligations.StepRunsDecodedCommand := by
  intro s rest v i hpending hdecode _
  obtain ⟨t, hexec, -⟩ := exec_endsWith i (s.withPending rest)
  have hwrite : busAccess (.write 0x000#9 32 v) (s.withPending rest) = .next (.ack, t) :=
    busWrite_of_execute (by decide) ((execute_of_decode hdecode _).trans hexec)
  rw [step_of_pending_access hpending hwrite]
  change _ = andThen (exec i (s.withPending rest)) _
  rw [hexec]
  rfl

/-- Settles O37: a step serves the head of the queue, and there is none. -/
theorem idleBlockDoesNothing : Obligations.IdleBlockDoesNothing := by
  intro s hpending
  simp only [step, serveNext, hpending]

/-- Settles O39: the step that serves the reset signal is the reset of the state without the signal. -/
theorem resetSignalKeepsBusSide : Obligations.ResetSignalKeepsBusSide := by
  refine ⟨rfl, rfl, fun s t rest hpending hstep => ?_⟩
  obtain rfl : resetBlock (s.withPending rest) = t :=
    Host.Outcome.next.inj ((step_of_pending_reset hpending).symm.trans hstep)
  exact ⟨resetBlock_pending _, resetBlock_responses _⟩

end Sys2Proof.Machine
end

section
/-! PROOFS. What the commands leave alone, the repeated commands, and the restoring of a hash context (20_memory.md R56,
41_ripemd128.md R137). -/

namespace Sys2Proof.Machine

/-- Settles O22: for each command, the ways it can end name the fields they change. -/
theorem commandFrames : Obligations.CommandFrames := by
  intro i s t h
  refine ⟨exec_frame h, ?_, ?_⟩
  · rintro (rfl | rfl | rfl)
    · rw [execNop_cases h]; exact ⟨rfl, rfl, rfl, rfl⟩
    · rw [execRmdInit_cases h]; exact ⟨rfl, rfl, rfl, rfl⟩
    · rw [execRmdCompress_cases h]; exact ⟨rfl, rfl, rfl, rfl⟩
  · rintro (rfl | rfl | ⟨k, n, rfl⟩ | ⟨l, rfl⟩)
    · rw [execNop_cases h]; rfl
    · rcases execSalsaSeek_cases h with ⟨_, rfl⟩ | ⟨_, rfl⟩ <;> rfl
    · rcases execSalsaInit_cases h with ⟨_, rfl⟩ | ⟨_, _, rfl⟩ | ⟨_, _, _, rfl⟩ | ⟨_, _, _, rfl⟩ <;> rfl
    · rcases execSalsaXor_cases h with ⟨_, rfl⟩ | ⟨_, _, rfl⟩ | ⟨_, _, rfl⟩ | ⟨_, _, _, rfl⟩ <;> rfl

/-- Settles O25: none of the three reads what it writes, except SALSA_SEEK's report, which leaves CVALID at 0. -/
theorem idempotentCommands : Obligations.IdempotentCommands := by
  rintro i s t (rfl | rfl | rfl) h
  · rw [execRmdInit_cases h]; rfl
  · rcases execSalsaSeek_cases h with ⟨hc, rfl⟩ | ⟨hc, rfl⟩
    · exact exec_salsaSeek_of_no_cipher hc
    · exact exec_salsaSeek_of_cipher hc
  · rw [execNop_cases h]; rfl

/-- R137: writing four words to `H0..H3` replaces the chaining state and nothing else. -/
theorem runProgram_restoreContext (c : Chain) (s : State) :
    runProgram (restoreContext c) s = .next ([.ack, .ack, .ack, .ack], s.withChain c) :=
  runProgram_cons_next (busAccess_wr s (.h 0) _ rfl) <| runProgram_cons_next (busAccess_wr _ (.h 1) _ rfl) <|
    runProgram_cons_next (busAccess_wr _ (.h 2) _ rfl) <| runProgram_cons_next (busAccess_wr _ (.h 3) _ rfl) rfl

/-- Settles O46: the words read are the chaining state, which the restoring writes back. -/
theorem hashContextSavesAndRestores : Obligations.HashContextSavesAndRestores := fun s u =>
  ⟨s.chain.h0, s.chain.h1, s.chain.h2, s.chain.h3, runProgram_readDigest s, runProgram_restoreContext s.chain u⟩

/-- Settles O2: the words are checked one by one. -/
theorem writtenOutWordsDecode : Obligations.WrittenOutWordsDecode := by
  unfold Obligations.WrittenOutWordsDecode
  decide

end Sys2Proof.Machine
end

section
/-! PROOFS. The datapath (00_scope.md R9, 42_salsa20.md R155 to R160): rotation by bits, quarter-rounds on disjoint indices
commute, and the XOR window is its own inverse. -/

namespace Sys2Proof.Machine

/-! ### Rotation -/

/-- Settles O12: bit `b` comes from the left shift when `n ≤ b`, and from the right shift otherwise. -/
theorem rolRotatesLeft : Obligations.RolRotatesLeft := by
  intro a n b hn1 hn31 hb
  simp only [rol32, BitVec.getLsbD_or, BitVec.getLsbD_shiftLeft, BitVec.getLsbD_ushiftRight]
  rcases Nat.lt_or_ge b n with hlt | hge
  · have hpos : (b + (32 - n)) % 32 = 32 - n + b := by omega
    simp [hlt, hpos]
  · have hpos : (b + (32 - n)) % 32 = b - n := by omega
    have hright : a.getLsbD (32 - n + b) = false := BitVec.getLsbD_of_ge _ _ (by omega)
    simp [hb, Nat.not_lt.mpr hge, hpos, hright]

/-! ### Quarter-rounds on disjoint indices -/

/-- The four indices of a quarter-round. -/
def Quad.indices (q : Quad) : List (Fin 16) := [q.y0, q.y1, q.y2, q.y3]

/-- Two working arrays hold the same words at these indices. -/
def AgreeOn (is : List (Fin 16)) (x y : Block) : Prop := ∀ i ∈ is, x[i] = y[i]

/-- An ARX update at indices of a list keeps agreement on the list. -/
theorem AgreeOn.arx {is : List (Fin 16)} {x y : Block} (h : AgreeOn is x y) {t a b : Fin 16} (ht : t ∈ is)
    (ha : a ∈ is) (hb : b ∈ is) (n : Nat) : AgreeOn is (arx t a b n x) (arx t a b n y) := by
  intro i hi
  by_cases hit : i = t
  · rw [hit, getElem_arx_self, getElem_arx_self, h t ht, h a ha, h b hb]
  · rw [getElem_arx_of_ne _ _ _ _ _ hit, getElem_arx_of_ne _ _ _ _ _ hit, h i hi]

/-- R155: the words a quarter-round writes depend on the words at its indices only. -/
theorem AgreeOn.quarterRound {q : Quad} {x y : Block} (h : AgreeOn q.indices x y) :
    AgreeOn q.indices (quarterRound q x) (quarterRound q y) := by
  have h0 : q.y0 ∈ q.indices := by simp [Quad.indices]
  have h1 : q.y1 ∈ q.indices := by simp [Quad.indices]
  have h2 : q.y2 ∈ q.indices := by simp [Quad.indices]
  have h3 : q.y3 ∈ q.indices := by simp [Quad.indices]
  exact (((h.arx h1 h0 h3 7).arx h2 h1 h0 9).arx h3 h2 h1 13).arx h0 h3 h2 18

/-- A quarter-round on other indices is not seen. -/
theorem agreeOn_quarterRound_of_disjoint {is : List (Fin 16)} {q : Quad} (h : is.Disjoint q.indices) (x : Block) :
    AgreeOn is (quarterRound q x) x := fun _ hi => getElem_quarterRound_of_notMem q x (h hi)

/-- Quarter-rounds on disjoint indices commute: at the indices of either, both orders give what it alone gives. -/
theorem quarterRound_comm {p q : Quad} (h : p.indices.Disjoint q.indices) (x : Block) :
    quarterRound p (quarterRound q x) = quarterRound q (quarterRound p x) := by
  have hp := agreeOn_quarterRound_of_disjoint h
  have hq := agreeOn_quarterRound_of_disjoint h.symm
  refine Vector.ext fun n hn => ?_
  obtain ⟨i, rfl⟩ : ∃ i : Fin 16, i.val = n := ⟨⟨n, hn⟩, rfl⟩
  change (quarterRound p (quarterRound q x))[i] = (quarterRound q (quarterRound p x))[i]
  by_cases hip : i ∈ p.indices
  · rw [(hp x).quarterRound i hip, hp _ i hip]
  by_cases hiq : i ∈ q.indices
  · rw [(hq x).quarterRound i hiq, hq _ i hiq]
  · rw [getElem_quarterRound_of_notMem p _ hip, getElem_quarterRound_of_notMem q _ hiq,
      getElem_quarterRound_of_notMem q _ hiq, getElem_quarterRound_of_notMem p _ hip]

/-- Quarter-rounds that are pairwise equal or on disjoint indices may be done in any order. -/
theorem quarterRounds_perm {ps qs : List Quad} (hperm : ps.Perm qs)
    (hdisjoint : ∀ p ∈ qs, ∀ q ∈ qs, p = q ∨ p.indices.Disjoint q.indices) (x : Block) :
    quarterRounds ps x = quarterRounds qs x := by
  refine hperm.foldl_eq' (fun p hp q hq y => ?_) x
  rcases hdisjoint p (hperm.mem_iff.mp hp) q (hperm.mem_iff.mp hq) with rfl | h
  · rfl
  · exact (quarterRound_comm h y).symm

theorem columnQuads_disjoint : ∀ p ∈ columnQuads, ∀ q ∈ columnQuads, p = q ∨ p.indices.Disjoint q.indices := by
  unfold List.Disjoint
  decide

theorem rowQuads_disjoint : ∀ p ∈ rowQuads, ∀ q ∈ rowQuads, p = q ∨ p.indices.Disjoint q.indices := by
  unfold List.Disjoint
  decide

/-- Settles O16: the quarter-rounds of a round have no index in common. -/
theorem quarterRoundOrderIrrelevant : Obligations.QuarterRoundOrderIrrelevant := fun _ x =>
  ⟨fun h => quarterRounds_perm h columnQuads_disjoint x, fun h => quarterRounds_perm h rowQuads_disjoint x⟩

/-! ### The XOR window -/

/-- R160: within the window, XORing twice with one keystream block gives the byte back. -/
theorem byteView_xorWindow_xorWindow {len : Nat} (din ks : Vector Word 16) {i : Fin 64} (hi : i.val < len) :
    byteView (n := 16) (xorWindow len (xorWindow len din ks) ks) i = byteView (n := 16) din i := by
  rw [byteView_xorWindow, if_pos hi, byteView_xorWindow, if_pos hi, BitVec.xor_assoc, BitVec.xor_self, BitVec.xor_zero]

/-- Settles O21: the second command XORs with the keystream block of the first, whose cipher and counter it has. -/
theorem salsaXorIsSelfInverse : Obligations.SalsaXorIsSelfInverse := by
  intro len s t hc hlen hexec
  rcases Nat.eq_zero_or_pos len.toNat with h0 | hpos
  · rw [exec_salsaXor_of_empty hc h0] at hexec
    cases hexec
    exact ⟨_, exec_salsaXor_of_empty hc h0, fun i hi => absurd hi (by omega)⟩
  · rw [exec_salsaXor_of_window hlen hc hpos] at hexec
    cases hexec
    exact ⟨_, exec_salsaXor_of_window hlen hc hpos, fun i hi => byteView_xorWindow_xorWindow s.din _ hi⟩

end Sys2Proof.Machine
end

section
/-! PROOFS. The bytes of words and the windows of a byte string (20_memory.md R50, 42_salsa20.md R176). -/

namespace Sys2Proof.Machine

/-! ### Words of byte strings -/

/-- R50: byte lane `k` of word `i` is byte `4 i + k` of the string, 0 past its end. -/
theorem byteOf_wordAt (b : List Byte) (i : Nat) {k : Nat} (hk : k < 4) :
    byteOf (wordAt b i) k = b.getD (4 * i + k) 0x00#8 := by
  obtain ⟨h0, h1, h2, h3⟩ := byteOf_le32 (b.getD (4 * i) 0x00#8) (b.getD (4 * i + 1) 0x00#8)
    (b.getD (4 * i + 2) 0x00#8) (b.getD (4 * i + 3) 0x00#8)
  interval_cases k
  · exact h0
  · exact h1
  · exact h2
  · exact h3

/-- Settles O55: the four bytes stand at the places that the word reads. -/
theorem wordAtPacksFourBytes : Obligations.WordAtPacksFourBytes := by
  intro a b b0 b1 b2 b3 i ha
  simp [wordAt, ← ha]

/-! ### Windows -/

@[simp] theorem windows_nil : windows [] = [] := rfl

/-- The windows of a byte string are its first 64 bytes and the windows of the rest. -/
theorem windows_of_ne_nil {b : List Byte} (h : b ≠ []) : windows b = b.take 64 :: windows (b.drop 64) := by
  have hpos : 0 < b.length := List.length_pos_iff.mpr h
  have hcount : (b.length + 63) / 64 = (b.length - 64 + 63) / 64 + 1 := by omega
  simp [windows, hcount, List.range_succ_eq_map, Function.comp_def, Nat.mul_succ, Nat.add_comm 64]

/-- Induction along the windows of a byte string. -/
theorem windows_induction {P : List Byte → Prop} (nil : P []) (window : ∀ b, b ≠ [] → P (b.drop 64) → P b)
    (b : List Byte) : P b := by
  induction hn : b.length using Nat.strong_induction_on generalizing b with
  | _ n ih =>
    by_cases hb : b = []
    · exact hb ▸ nil
    · have hpos : 0 < b.length := List.length_pos_iff.mpr hb
      exact window b hb (ih _ (by rw [List.length_drop]; omega) _ rfl)

theorem flatten_windows (b : List Byte) : (windows b).flatten = b := by
  induction b using windows_induction with
  | nil => rfl
  | window b hb ih => rw [windows_of_ne_nil hb, List.flatten_cons, ih, List.take_append_drop]

theorem length_of_mem_windows {b w : List Byte} (hw : w ∈ windows b) : 1 ≤ w.length ∧ w.length ≤ 64 := by
  induction b using windows_induction with
  | nil => cases hw
  | window b hb ih =>
    have hpos : 0 < b.length := List.length_pos_iff.mpr hb
    rw [windows_of_ne_nil hb] at hw
    rcases List.mem_cons.mp hw with rfl | hw
    · rw [List.length_take]
      omega
    · exact ih hw

/-- A window with one after it is full. -/
theorem length_of_mem_dropLast_windows {b w : List Byte} (hw : w ∈ (windows b).dropLast) : w.length = 64 := by
  induction b using windows_induction with
  | nil => cases hw
  | window b hb ih =>
    rw [windows_of_ne_nil hb] at hw
    by_cases hrest : b.drop 64 = []
    · simp [hrest] at hw
    · have hlong : 64 < b.length := by simpa using hrest
      rw [List.dropLast_cons_of_ne_nil (by simp [windows_of_ne_nil hrest])] at hw
      rcases List.mem_cons.mp hw with rfl | hw
      · rw [List.length_take]
        omega
      · exact ih hw

/-- Settles O56: by induction along the windows. -/
theorem windowsCutInOrder : Obligations.WindowsCutInOrder := fun b =>
  ⟨flatten_windows b, fun _ => length_of_mem_windows, fun _ => length_of_mem_dropLast_windows,
    fun h => by rw [h, windows_nil]⟩

end Sys2Proof.Machine
end

section
/-! PROOFS. CONSTRUCT (42_salsa20.md R175): staging the operands, then SALSA_INIT and the STATUS read. -/

namespace Sys2Proof.Machine

/-! ### Parts of host programs -/

theorem mem_take_finRange {n m : Nat} {i : Fin n} : i ∈ (List.finRange n).take m ↔ i.val < m := by
  simp [List.mem_take_iff_getElem, Fin.ext_iff]

@[simp] theorem valuesOf_replicate_ack (n : Nat) : valuesOf (List.replicate n .ack) = [] := by
  induction n with
  | zero => rfl
  | succ n ih => rw [List.replicate_succ, valuesOf_cons_ack, ih]

/-- Writes to the first `m` entries of a register array read nothing, and change those entries only. -/
theorem runProgram_wr_first {n : Nat} {reg : Fin n → Reg} {put : Vector Word n → State}
    (hput : ∀ x i v, storeReg (put x) v (reg i) = some (put (x.set i v))) (w : Fin n → Word) (m : Nat)
    (x : Vector Word n) :
    ∃ rs y, valuesOf rs = [] ∧
      runProgram (((List.finRange n).take m).map fun i => wr (reg i) (w i)) (put x) = .next (rs, put y) ∧
      ∀ i : Fin n, i.val < m → y[i] = w i := by
  obtain ⟨y, hy, hrun⟩ := runProgram_wr_array hput w ((List.finRange n).take m) x
  exact ⟨_, y, valuesOf_replicate_ack _, hrun, fun i hi => by rw [hy, if_pos (mem_take_finRange.mpr hi)]⟩

/-! ### Staging -/

/-- A key length that CONSTRUCT loads. -/
def KeyLength (n : Nat) : Prop := n = 16 ∨ n = 32

/-- CONSTRUCT stages the words of a key of valid length. -/
theorem runProgram_stageKey (key : List Byte) (s : State) :
    ∃ rs k, valuesOf rs = [] ∧
      runProgram (if key.length = 16 ∨ key.length = 32 then loadKey key else []) s =
        .next (rs, s.withStaging { s.staging with key := k }) ∧
      (KeyLength key.length → ∀ i : Fin 8, i.val < key.length / 4 → k[i] = wordAt key i) := by
  split_ifs with hkey
  · obtain ⟨rs, k, hrs, hrun, hk⟩ := runProgram_wr_first (reg := Reg.key)
      (put := fun x => s.withStaging { s.staging with key := x }) (fun _ _ _ => rfl) (fun i => wordAt key i)
      (key.length / 4) s.staging.key
    exact ⟨rs, k, hrs, hrun, fun _ => hk⟩
  · exact ⟨[], s.staging.key, rfl, rfl, fun h => absurd h hkey⟩

/-- CONSTRUCT stages the words of a nonce of valid length. -/
theorem runProgram_stageNonce (nonce : List Byte) (s : State) :
    ∃ rs w, valuesOf rs = [] ∧
      runProgram (if nonce.length = 8 then loadNonce nonce else []) s =
        .next (rs, s.withStaging { s.staging with nonce := w }) ∧
      (nonce.length = 8 → w = Vector.ofFn fun i : Fin 2 => wordAt nonce i) := by
  split_ifs with hnonce
  · have hrun := runProgram_wr_whole_array (reg := Reg.nonce)
      (put := fun x => s.withStaging { s.staging with nonce := x }) (fun _ _ _ => rfl) (fun i => wordAt nonce i)
      s.staging.nonce
    exact ⟨_, _, valuesOf_replicate_ack 2, hrun, fun _ => rfl⟩
  · exact ⟨[], s.staging.nonce, rfl, rfl, fun h => absurd h hnonce⟩

/-- The staging registers after CONSTRUCT's writes: the counter and the rounds always, key and nonce words where their
lengths are valid. -/
structure StagedFor (key nonce : List Byte) (counter : Word64) (rounds : Int) (g : Staging) : Prop where
  key : KeyLength key.length → ∀ i : Fin 8, i.val < key.length / 4 → g.key[i] = wordAt key i
  nonce : nonce.length = 8 → g.nonce = Vector.ofFn fun i : Fin 2 => wordAt nonce i
  counter : g.ctrinHi ++ g.ctrinLo = counter
  rounds : g.rounds = BitVec.ofInt 32 rounds

/-- The key field of the command word that CONSTRUCT emits (D29). -/
def klenOf (key : List Byte) : BitVec 6 := BitVec.ofNat 6 (min key.length 63)

/-- The nonce field of the command word that CONSTRUCT emits (D29). -/
def nlenOf (nonce : List Byte) : BitVec 4 := BitVec.ofNat 4 (min nonce.length 15)

/-- CONSTRUCT is SALSA_INIT in the state with the operands staged; it answers the code that the command leaves in ERR. -/
theorem construct_of_exec (key nonce : List Byte) (counter : Word64) (rounds : Int) (s : State)
    (hr : roundsInRange rounds = true) :
    ∃ g, StagedFor key nonce counter rounds g ∧
      ∀ t, exec (.salsaInit (klenOf key) (nlenOf nonce)) (s.withStaging g) = .next t →
        construct key nonce counter rounds s = .next (some t.err, t) := by
  obtain ⟨rsk, k, hrsk, hrunk, hk⟩ := runProgram_stageKey key s
  obtain ⟨rsn, w, hrsn, hrunn, hw⟩ := runProgram_stageNonce nonce (s.withStaging { s.staging with key := k })
  refine ⟨⟨k, w, counter.extractLsb' 0 32, counter.extractLsb' 32 32, BitVec.ofInt 32 rounds⟩,
    ⟨hk, hw, ctr_high_append_low counter, rfl⟩, fun t hexec => ?_⟩
  have hinit := busAccess_cmd _ _ (decode_encode_salsaInit (klenOf key) (nlenOf nonce)) hexec
  have hstaged := runProgram_append_next (runProgram_append_next hrunk hrunn) (runProgram_setCtrin _ counter)
  have hrounds := busAccess_wr
    (((s.withStaging { s.staging with key := k }).withStaging { s.staging with key := k, nonce := w }).withCtrin counter)
    .rounds (BitVec.ofInt 32 rounds) rfl
  have hrun : runProgram (constructProgram key nonce counter rounds) s =
      .next (rsk ++ rsn ++ [.ack, .ack] ++ [.ack, .ack, .value (statusWord t)], t) :=
    runProgram_append_next hstaged <| runProgram_cons_next hrounds <| runProgram_cons_next hinit <|
      runProgram_cons_next (busAccess_rd t .status rfl) (runProgram_nil t)
  rw [construct, if_pos hr, hrun, andThen_next]
  simp [hrsk, hrsn, statusErr_statusWord]

/-! ### The outcome -/

/-- The first error of R175 that applies. -/
def constructCode (key nonce : List Byte) (rounds : Int) : ErrCode :=
  if key.length ≠ 16 ∧ key.length ≠ 32 then .invalidKeySize
  else if nonce.length ≠ 8 then .invalidNonceSize
  else if rounds ≤ 0 ∨ rounds % 2 ≠ 0 then .invalidRounds
  else .ok

theorem toNat_bits_constructCode (key nonce : List Byte) (rounds : Int) :
    (constructCode key nonce rounds).bits.toNat =
      if key.length ≠ 16 ∧ key.length ≠ 32 then 1 else if nonce.length ≠ 8 then 2
      else if rounds ≤ 0 ∨ rounds % 2 ≠ 0 then 3 else 0 := by
  unfold constructCode
  split_ifs <;> rfl

theorem constructCode_eq_ok_iff {key nonce : List Byte} {rounds : Int} :
    constructCode key nonce rounds = .ok ↔
      KeyLength key.length ∧ nonce.length = 8 ∧ ¬ (rounds ≤ 0 ∨ rounds % 2 ≠ 0) := by
  unfold constructCode KeyLength
  split_ifs <;> simp <;> omega

theorem bits_eq_zero_iff {c : ErrCode} : c.bits = 0#4 ↔ c = .ok := by
  cases c <;> decide

theorem roundsInRange_eq_true_iff {r : Int} : roundsInRange r = true ↔ -(2 ^ 31) ≤ r ∧ r ≤ 2 ^ 31 - 1 := by
  simp [roundsInRange]

/-- R6: a round count in range is the value of the word that stands for it. -/
theorem toInt_ofInt_of_inRange {r : Int} (h : roundsInRange r = true) : (BitVec.ofInt 32 r).toInt = r := by
  obtain ⟨hlow, hhigh⟩ := roundsInRange_eq_true_iff.mp h
  rw [BitVec.toInt_ofInt, Int.bmod_def]
  omega

/-- D29: shortening a length to its field's maximum changes no check of SALSA_INIT. -/
theorem resultCode_construct (key nonce : List Byte) {rounds : Int} (hr : roundsInRange rounds = true) (s : State)
    (hrounds : s.staging.rounds = BitVec.ofInt 32 rounds) :
    resultCode (.salsaInit (klenOf key) (nlenOf nonce)) s = constructCode key nonce rounds := by
  have hklen : (klenOf key).toNat = min key.length 63 := by
    rw [klenOf, BitVec.toNat_ofNat]
    omega
  have hnlen : (nlenOf nonce).toNat = min nonce.length 15 := by
    rw [nlenOf, BitVec.toNat_ofNat]
    omega
  have hkey : (min key.length 63 ≠ 16 ∧ min key.length 63 ≠ 32) ↔ (key.length ≠ 16 ∧ key.length ≠ 32) := by omega
  have hnonce : min nonce.length 15 ≠ 8 ↔ nonce.length ≠ 8 := by omega
  simp only [resultCode, constructCode, hklen, hnlen, hkey, hnonce, hrounds, toInt_ofInt_of_inRange hr]

/-- R175, R151, R152: the cipher of a key, a nonce and a round count. -/
def hostCipher (key nonce : List Byte) (rounds : Int) : Cipher where
  ck := Vector.ofFn fun i : Fin 8 => wordAt key (if key.length = 32 then i.val else i.val % 4)
  cn := Vector.ofFn fun i : Fin 2 => wordAt nonce i
  cc := if key.length = 32 then sigma else tau
  cr := BitVec.ofInt 32 rounds
  cvalid := true
  ckey32 := decide (key.length = 32)

/-- R151: the expanded words of a staged key are the key's own, all eight of them or the first four twice. -/
theorem expandKey_staged {key : List Byte} (hkey : KeyLength key.length) {k : Vector Word 8}
    (hk : ∀ i : Fin 8, i.val < key.length / 4 → k[i] = wordAt key i) :
    expandKey (decide (key.length = 32)) k =
      Vector.ofFn fun i : Fin 8 => wordAt key (if key.length = 32 then i.val else i.val % 4) := by
  refine Vector.ext fun i hi => ?_
  rcases hkey with h16 | h32
  · have hword := hk ⟨i % 4, by omega⟩ (by simp only [h16]; omega)
    simpa [expandKey, h16] using hword
  · have hword := hk ⟨i, hi⟩ (by simpa only [h32] using hi)
    simpa [expandKey, h32] using hword

/-- SALSA_INIT constructs the host's cipher from the staged operands. -/
theorem constructed_eq_hostCipher {key nonce : List Byte} {counter : Word64} {rounds : Int} {g : Staging}
    (hg : StagedFor key nonce counter rounds g) (hkey : KeyLength key.length) (hnonce : nonce.length = 8) :
    constructed (klenOf key == 32#6) g = hostCipher key nonce rounds := by
  have hlen : (klenOf key == 32#6) = decide (key.length = 32) := by
    rcases hkey with h | h <;> simp [klenOf, h]
  simp only [constructed, hostCipher, hlen, expandKey_staged hkey (hg.key hkey), hg.nonce hnonce, hg.rounds,
    decide_eq_true_iff]

section
variable {key nonce : List Byte} {rounds : Int} (counter : Word64) (s : State) (hr : roundsInRange rounds = true)
include hr

/-- R175: with an error CONSTRUCT changes the staging registers and ERR only. -/
theorem construct_of_error (hcode : constructCode key nonce rounds ≠ .ok) :
    ∃ g, construct key nonce counter rounds s =
      .next (some (constructCode key nonce rounds).bits,
        (s.withStaging g).withErr (constructCode key nonce rounds)) := by
  obtain ⟨g, hg, hconstruct⟩ := construct_of_exec key nonce counter rounds s hr
  obtain ⟨t, hexec, herr, hframe⟩ := exec_endsWith (.salsaInit (klenOf key) (nlenOf nonce)) (s.withStaging g)
  rw [resultCode_construct key nonce hr (s.withStaging g) hg.rounds] at herr hframe
  refine ⟨g, ?_⟩
  rw [hconstruct t hexec, herr, hframe hcode]

/-- R175: without one it leaves the host's cipher at the given counter. -/
theorem construct_of_ok (hcode : constructCode key nonce rounds = .ok) :
    ∃ g, construct key nonce counter rounds s =
      .next (some 0#4, { s.withStaging g with
        cipher := hostCipher key nonce rounds, ctr := counter, err := 0#4 }) := by
  obtain ⟨g, hg, hconstruct⟩ := construct_of_exec key nonce counter rounds s hr
  obtain ⟨t, hexec, herr, -⟩ := exec_endsWith (.salsaInit (klenOf key) (nlenOf nonce)) (s.withStaging g)
  rw [resultCode_construct key nonce hr (s.withStaging g) hg.rounds, hcode] at herr
  obtain ⟨hkey, hnonce, -⟩ := constructCode_eq_ok_iff.mp hcode
  refine ⟨g, ?_⟩
  rw [hconstruct t hexec, herr, ErrCode.bits_ok]
  rcases execSalsaInit_cases hexec with ⟨_, rfl⟩ | ⟨_, _, rfl⟩ | ⟨_, _, _, rfl⟩ | ⟨_, _, _, rfl⟩
  · simp at herr
  · simp at herr
  · simp at herr
  · rw [State.withStaging_staging, constructed_eq_hostCipher hg hkey hnonce, ctrin, State.withStaging_staging,
      hg.counter]
    rfl

end

/-- Settles O47: an error leaves the cipher alone; without one the fields of the cipher are the host's. -/
theorem constructOutcomes : Obligations.ConstructOutcomes := by
  intro key nonce counter rounds s hlow hhigh
  have hr := roundsInRange_eq_true_iff.mpr ⟨hlow, hhigh⟩
  refine ⟨(constructCode key nonce rounds).bits, ?_⟩
  rw [toNat_bits_constructCode]
  by_cases hcode : constructCode key nonce rounds = .ok
  · obtain ⟨g, hconstruct⟩ := construct_of_ok counter s hr hcode
    rw [hcode, ErrCode.bits_ok]
    exact ⟨_, hconstruct, rfl, rfl, rfl, rfl, rfl, rfl, fun h => absurd rfl h, fun _ =>
      ⟨rfl, rfl, toInt_ofInt_of_inRange hr, rfl, rfl, fun i => Vector.getElem_ofFn .., fun i => Vector.getElem_ofFn ..⟩⟩
  · obtain ⟨g, hconstruct⟩ := construct_of_error counter s hr hcode
    exact ⟨_, hconstruct, rfl, rfl, rfl, rfl, rfl, rfl, fun _ => ⟨rfl, rfl⟩, fun h =>
      absurd (bits_eq_zero_iff.mp h) hcode⟩

/-- A CONSTRUCT that answers 0 leaves the host's cipher at the given counter. -/
theorem cipher_ctr_of_construct {key nonce : List Byte} {counter : Word64} {rounds : Int} {s t : State}
    (h : construct key nonce counter rounds s = .next (some 0#4, t)) :
    t.cipher = hostCipher key nonce rounds ∧ t.ctr = counter := by
  have hr : roundsInRange rounds = true := by
    by_contra hr
    rw [construct, if_neg hr] at h
    cases h
  by_cases hcode : constructCode key nonce rounds = .ok
  · obtain ⟨g, hconstruct⟩ := construct_of_ok counter s hr hcode
    cases h.symm.trans hconstruct
    exact ⟨rfl, rfl⟩
  · obtain ⟨g, hconstruct⟩ := construct_of_error counter s hr hcode
    have hanswer := h.symm.trans hconstruct
    simp only [Host.Outcome.next.injEq, Prod.mk.injEq, Option.some.injEq] at hanswer
    exact absurd (bits_eq_zero_iff.mp hanswer.1.symm) hcode

end Sys2Proof.Machine
end

section
/-! PROOFS. PROCESS (42_salsa20.md R176, R178): one window, all windows, and what follows of the answer being the data XORed
with the keystream. -/

namespace Sys2Proof.Machine

/-! ### The keystream on a byte string -/

/-- R159, R176: byte `n` of the keystream that begins at counter value `c`. -/
def keystreamByte (k : Cipher) (c : Word64) (n : Nat) : Byte :=
  byteView (n := 16) (keystreamWords k (c + BitVec.ofNat 64 (n / 64))) (Fin.ofNat 64 n)

/-- The data XORed with the keystream that begins at counter value `c`. -/
def xorKeystream (k : Cipher) (c : Word64) (data : List Byte) : List Byte :=
  data.mapIdx fun n b => b ^^^ keystreamByte k c n

section
variable (k : Cipher) (c : Word64)

@[simp] theorem length_xorKeystream (data : List Byte) : (xorKeystream k c data).length = data.length := by
  simp [xorKeystream]

theorem getElem_xorKeystream (data : List Byte) {n : Nat} (hn : n < data.length) :
    (xorKeystream k c data)[n]'(by simpa using hn) = data[n] ^^^ keystreamByte k c n := by
  simp [xorKeystream]

/-- XORing twice with one keystream gives the data back. -/
theorem xorKeystream_xorKeystream (data : List Byte) : xorKeystream k c (xorKeystream k c data) = data := by
  refine List.ext_getElem (by simp) fun n _ hn => ?_
  rw [getElem_xorKeystream _ _ _ (by simpa using hn), getElem_xorKeystream _ _ _ hn, BitVec.xor_assoc,
    BitVec.xor_self, BitVec.xor_zero]

/-- From a block boundary on, the keystream is the one that begins at that block's counter value. -/
theorem keystreamByte_add (m n : Nat) : keystreamByte k c (64 * m + n) = keystreamByte k (c + BitVec.ofNat 64 m) n := by
  have hblock : (64 * m + n) / 64 = m + n / 64 := by omega
  have hbyte : Fin.ofNat 64 (64 * m + n) = Fin.ofNat 64 n := by simp [Fin.ext_iff]
  rw [keystreamByte, keystreamByte, hblock, hbyte, BitVec.ofNat_add, BitVec.add_assoc]

theorem xorKeystream_append {a : List Byte} {m : Nat} (ha : a.length = 64 * m) (b : List Byte) :
    xorKeystream k c (a ++ b) = xorKeystream k c a ++ xorKeystream k (c + BitVec.ofNat 64 m) b := by
  simp only [xorKeystream, List.mapIdx_append, ha, Nat.add_comm _ (64 * m), keystreamByte_add]

end

/-! ### The bytes of words read -/

/-- R50: byte `n` of the bytes of words is lane `n mod 4` of word `n div 4`. -/
theorem getElem?_bytesOf (ws : List Word) (n : Nat) :
    (bytesOf ws)[n]? = ws[n / 4]?.map fun w => byteOf w (n % 4) := by
  induction ws generalizing n with
  | nil => rfl
  | cons w ws ih =>
    rcases Nat.lt_or_ge n 4 with hn | hn
    · interval_cases n <;> rfl
    · obtain ⟨n, rfl⟩ := Nat.exists_eq_add_of_le' hn
      rw [Nat.add_div_right n (by decide), Nat.add_mod_right]
      exact ih n

theorem bytesOf_append (ws ws' : List Word) : bytesOf (ws ++ ws') = bytesOf ws ++ bytesOf ws' := List.flatMap_append

theorem byteView_eq (x : Vector Word 16) {n : Nat} (hn : n < 64) :
    byteView (n := 16) x ⟨n, hn⟩ = byteOf (x[n / 4]'(by omega)) (n % 4) := rfl

/-- The words that READDOUT reads. -/
def firstWords (x : Vector Word 16) (m : Nat) : List Word := ((List.finRange 16).take m).map fun i => x[i]

theorem getElem?_firstWords (x : Vector Word 16) {m j : Nat} (hj : j < m) (hj16 : j < 16) :
    (firstWords x m)[j]? = some x[j] := by
  simp [firstWords, hj, hj16]

/-- R87: READDOUT of `len` bytes reads the words that hold them, and changes nothing. -/
theorem runProgram_readDout (len : Nat) (s : State) :
    ∃ rs, runProgram (readDout len) s = .next (rs, s) ∧ valuesOf rs = firstWords s.dout ((len + 3) / 4) := by
  unfold readDout firstWords
  induction (List.finRange 16).take ((len + 3) / 4) with
  | nil => exact ⟨[], rfl, rfl⟩
  | cons i is ih =>
    obtain ⟨rs, hrun, hvalues⟩ := ih
    exact ⟨.value s.dout[i] :: rs, runProgram_cons_next (busAccess_rd s (.dout i) rfl) hrun,
      congrArg (s.dout[i] :: ·) hvalues⟩

/-- R160, R176: the first bytes of DOUT after a window are the window XORed with the keystream block, whatever DIN held
past the words loaded. -/
theorem take_bytesOf_xorWindow (k : Cipher) (c : Word64) {w : List Byte} (hw : w.length ≤ 64) {din : Vector Word 16}
    (hdin : ∀ i : Fin 16, i.val < (w.length + 3) / 4 → din[i] = wordAt w i) :
    (bytesOf (firstWords (xorWindow w.length din (keystreamWords k c)) ((w.length + 3) / 4))).take w.length =
      xorKeystream k c w := by
  refine List.ext_getElem? fun n => ?_
  rcases Nat.lt_or_ge n w.length with hn | hn
  · have hn64 : n < 64 := Nat.lt_of_lt_of_le hn hw
    have hloaded : byteView (n := 16) din ⟨n, hn64⟩ = w[n] := by
      have hword := hdin ⟨n / 4, by omega⟩ (by simp only; omega)
      rw [Fin.getElem_fin] at hword
      rw [byteView_eq, hword, byteOf_wordAt _ _ (Nat.mod_lt n (by decide)), Nat.div_add_mod]
      simp [hn]
    have hkey : keystreamByte k c n = byteView (n := 16) (keystreamWords k c) ⟨n, hn64⟩ := by
      have hbyte : Fin.ofNat 64 n = ⟨n, hn64⟩ := Fin.ext (Nat.mod_eq_of_lt hn64)
      rw [keystreamByte, hbyte, Nat.div_eq_of_lt hn64, BitVec.add_zero]
    rw [List.getElem?_take_of_lt hn, getElem?_bytesOf, getElem?_firstWords _ (by omega) (by omega), Option.map_some,
      ← byteView_eq _ hn64, byteView_xorWindow, if_pos hn, hloaded, ← hkey, ← getElem_xorKeystream k c w hn,
      ← List.getElem?_eq_getElem]
  · rw [List.getElem?_eq_none (by simp [hn]), List.getElem?_eq_none (by simpa using hn)]

/-! ### One window -/

/-- All that PROCESS changes of a state: the data buffers, the counter and ERR. -/
def State.withData (s : State) (din dout : Vector Word 16) (c : Word64) (e : BitVec 4) : State :=
  { s with din := din, dout := dout, ctr := c, err := e }

section
variable (s : State) (din dout din' dout' : Vector Word 16) (c c' : Word64) (e e' : BitVec 4)

@[simp] theorem State.withData_ctr : (s.withData din dout c e).ctr = c := rfl
@[simp] theorem State.withData_cipher : (s.withData din dout c e).cipher = s.cipher := rfl
@[simp] theorem State.withData_staging : (s.withData din dout c e).staging = s.staging := rfl
@[simp] theorem State.withData_chain : (s.withData din dout c e).chain = s.chain := rfl
@[simp] theorem State.withData_mblk : (s.withData din dout c e).mblk = s.mblk := rfl

theorem State.withData_self : s.withData s.din s.dout s.ctr s.err = s := rfl
theorem State.withData_withData : (s.withData din dout c e).withData din' dout' c' e' = s.withData din' dout' c' e' := rfl

end

/-- The accesses of PROCESS for one window (R176). -/
def windowProgram (w : List Byte) : List BusAccess :=
  loadDin w ++ [cmd (.salsaXor (BitVec.ofNat 7 w.length))] ++ readDout w.length

theorem processProgram_of_ne_nil {b : List Byte} (h : b ≠ []) :
    processProgram b = windowProgram (b.take 64) ++ processProgram (b.drop 64) := by
  rw [processProgram, windows_of_ne_nil h, List.flatMap_cons]
  rfl

/-- One window: the words read hold the window XORed with the keystream block at CTR, and CTR advances by one. -/
theorem runProgram_window {w : List Byte} (h1 : 1 ≤ w.length) (h64 : w.length ≤ 64) {s : State}
    (hc : s.cipher.cvalid = true) :
    ∃ rs din dout, runProgram (windowProgram w) s = .next (rs, s.withData din dout (s.ctr + 1#64) 0#4) ∧
      (bytesOf (valuesOf rs)).length = 4 * ((w.length + 3) / 4) ∧
      (bytesOf (valuesOf rs)).take w.length = xorKeystream s.cipher s.ctr w := by
  obtain ⟨rsl, din, hrsl, hload, hdin⟩ := runProgram_wr_first (reg := Reg.din) (put := s.withDin) (fun _ _ _ => rfl)
    (fun i => wordAt w i) ((w.length + 3) / 4) s.din
  have hlen : (BitVec.ofNat 7 w.length).toNat = w.length := by
    rw [BitVec.toNat_ofNat]
    omega
  have hexec := exec_salsaXor_of_window (len := BitVec.ofNat 7 w.length) (s := s.withDin din) (by rwa [hlen]) hc
    (by rwa [hlen])
  rw [hlen] at hexec
  have hcmd := busAccess_cmd _ _ (decode_encode_salsaXor (by rwa [hlen])) hexec
  obtain ⟨rsr, hread, hvalues⟩ := runProgram_readDout w.length
    (s.withData din (xorWindow w.length din (keystreamWords s.cipher s.ctr)) (s.ctr + 1#64) 0#4)
  have hwords : valuesOf (rsl ++ [.ack] ++ rsr) =
      firstWords (xorWindow w.length din (keystreamWords s.cipher s.ctr)) ((w.length + 3) / 4) := by
    rw [valuesOf_append, valuesOf_append, hrsl, hvalues]
    rfl
  refine ⟨rsl ++ [.ack] ++ rsr, din, _, runProgram_append_next (runProgram_append_next hload
    (runProgram_cons_next hcmd (runProgram_nil _))) hread, ?_, ?_⟩
  · rw [hwords, length_bytesOf, firstWords, List.length_map, List.length_take, List.length_finRange]
    omega
  · rw [hwords]
    exact take_bytesOf_xorWindow s.cipher s.ctr h64 hdin

/-! ### All windows -/

/-- The bytes read for the first window, which are as many as the window when another one follows, and those of the rest
begin with the data XORed with the keystream. -/
theorem take_append_eq_xorKeystream {k : Cipher} {c : Word64} {b p q : List Byte}
    (hp : p.take (b.take 64).length = xorKeystream k c (b.take 64))
    (hlen : p.length = 4 * (((b.take 64).length + 3) / 4))
    (hq : q.take (b.drop 64).length = xorKeystream k (c + 1#64) (b.drop 64)) :
    (p ++ q).take b.length = xorKeystream k c b := by
  rcases Nat.lt_or_ge 64 b.length with hlong | hshort
  · have hfull : (b.take 64).length = 64 := by
      rw [List.length_take]
      omega
    have hpfull : p.length = 64 := by omega
    rw [hfull, List.take_of_length_le (Nat.le_of_eq hpfull)] at hp
    have hsplit := xorKeystream_append k c (m := 1) hfull (b.drop 64)
    rw [List.take_append_drop, ← hp, ← hq] at hsplit
    rw [hsplit, List.take_append, List.take_of_length_le (by omega), hpfull, List.length_drop]
  · rw [List.take_of_length_le hshort] at hp hlen
    rw [List.take_append_of_le_length (by omega), hp]

/-- PROCESS window by window: the bytes of the words read begin with the data XORed with the keystream, and CTR advances by
the number of windows. -/
theorem runProgram_process (data : List Byte) {s : State} (hc : s.cipher.cvalid = true) :
    ∃ rs din dout e, runProgram (processProgram data) s =
        .next (rs, s.withData din dout (s.ctr + BitVec.ofNat 64 ((data.length + 63) / 64)) e) ∧
      (bytesOf (valuesOf rs)).take data.length = xorKeystream s.cipher s.ctr data := by
  induction data using windows_induction generalizing s with
  | nil => exact ⟨[], s.din, s.dout, s.err, by simp [processProgram, State.withData_self], rfl⟩
  | window b hb ih =>
    have hpos : 0 < b.length := List.length_pos_iff.mpr hb
    have hfirst : (b.take 64).length = min 64 b.length := List.length_take
    obtain ⟨rs, din, dout, hwindow, hlong, hbytes⟩ := runProgram_window (w := b.take 64) (by omega) (by omega) hc
    obtain ⟨rs', din', dout', e, hrest, hbytes'⟩ := ih (s := s.withData din dout (s.ctr + 1#64) 0#4) hc
    have hcount : 1 + ((b.drop 64).length + 63) / 64 = (b.length + 63) / 64 := by
      rw [List.length_drop]
      omega
    refine ⟨rs ++ rs', din', dout', e, ?_, ?_⟩
    · rw [processProgram_of_ne_nil hb, runProgram_append_next hwindow hrest, State.withData_withData,
        State.withData_ctr, BitVec.add_assoc, ← BitVec.ofNat_add, hcount]
    · rw [valuesOf_append, bytesOf_append]
      exact take_append_eq_xorKeystream hbytes hlong hbytes'

/-- R176: PROCESS with a cipher answers the data XORed with the keystream from CTR on, and CTR advances by the number of
windows. -/
theorem process_eq (data : List Byte) {s : State} (hc : s.cipher.cvalid = true) :
    ∃ din dout e, process data s = .next (xorKeystream s.cipher s.ctr data,
      s.withData din dout (s.ctr + BitVec.ofNat 64 ((data.length + 63) / 64)) e) := by
  obtain ⟨rs, din, dout, e, hrun, hbytes⟩ := runProgram_process data hc
  exact ⟨din, dout, e, by rw [process, hrun, andThen_next, hbytes]⟩

/-- Settles O49: the bytes of the answer are the data's, each XORed with its keystream byte. -/
theorem processXorsKeystream : Obligations.ProcessXorsKeystream := by
  intro data s hc
  obtain ⟨din, dout, e, hprocess⟩ := process_eq data hc
  refine ⟨_, _, hprocess, length_xorKeystream .., fun n hn => ?_, s.withData_ctr .., s.withData_cipher ..,
    s.withData_staging .., s.withData_chain .., s.withData_mblk ..⟩
  rw [List.getD_eq_getElem _ _ hn, List.getD_eq_getElem _ _ (by simpa using hn), getElem_xorKeystream _ _ _ hn]
  rfl

/-- Settles O50: both calls XOR with the keystream of one cipher from one counter value. -/
theorem processRoundTrip : Obligations.ProcessRoundTrip := by
  intro data out s t u hc hprocess hcipher hctr
  obtain ⟨_, _, _, hfirst⟩ := process_eq data hc
  cases hprocess.symm.trans hfirst
  obtain ⟨_, _, _, hsecond⟩ := process_eq (xorKeystream s.cipher s.ctr data) (s := u) (hcipher ▸ hc)
  rw [hcipher, hctr, xorKeystream_xorKeystream] at hsecond
  exact ⟨_, hsecond⟩

/-- Settles O51: the first call leaves the counter at the block where the second part's keystream begins. -/
theorem processContinuity : Obligations.ProcessContinuity := by
  intro a b s hc ha
  obtain ⟨m, hm⟩ : ∃ m, a.length = 64 * m := ⟨a.length / 64, by omega⟩
  have hblocks : (a.length + 63) / 64 = m := by omega
  have hcount : m + (b.length + 63) / 64 = ((a ++ b).length + 63) / 64 := by
    rw [List.length_append]
    omega
  obtain ⟨din, dout, e, hfirst⟩ := process_eq a hc
  rw [hblocks] at hfirst
  obtain ⟨_, _, _, hsecond⟩ := process_eq b (s := s.withData din dout (s.ctr + BitVec.ofNat 64 m) e) hc
  obtain ⟨_, _, _, hwhole⟩ := process_eq (a ++ b) hc
  rw [xorKeystream_append _ _ hm, ← hcount] at hwhole
  exact ⟨_, _, _, _, _, hfirst, hsecond, hwhole, by simp [BitVec.ofNat_add, BitVec.add_assoc]⟩

/-- Settles O52: both states have the host's cipher of one key, nonce and round count, at counter value `n`. -/
theorem seekThenProcessIsPure : Obligations.SeekThenProcessIsPure := by
  intro key nonce data c n rounds s s' t0 t1 h0 h1
  obtain ⟨hcipher0, -⟩ := cipher_ctr_of_construct h0
  obtain ⟨hcipher1, hctr1⟩ := cipher_ctr_of_construct h1
  have hvalid0 : t0.cipher.cvalid = true := hcipher0 ▸ rfl
  have hvalid1 : t1.cipher.cvalid = true := hcipher1 ▸ rfl
  have hseek := (seekOverwritesCounter n t0).1 hvalid0
  obtain ⟨_, _, _, hsought⟩ := process_eq data (s := { t0 with
    staging := { t0.staging with ctrinLo := n.extractLsb' 0 32, ctrinHi := n.extractLsb' 32 32 }, ctr := n, err := 0#4 })
    hvalid0
  obtain ⟨_, _, _, hfresh⟩ := process_eq data hvalid1
  rw [hcipher1, hctr1, ← hcipher0] at hfresh
  exact ⟨_, _, _, _, hseek, hsought, hfresh, rfl⟩

end Sys2Proof.Machine
end

section
/-! PROOFS. What a host may ask for (60_exceptions.md R216): two refusals by name, and an answer to every other call. -/

namespace Sys2Proof.Machine

/-- Every procedure is a host program and a reading of its responses, so it answers; CONSTRUCT does so for a round count in
range. -/
theorem exists_hostCall_next (c : HostCall) (s : State) (hfast : c ≠ .fastDecrypt)
    (hrounds : ∀ key nonce counter rounds, c = .construct key nonce counter rounds → roundsInRange rounds = true) :
    ∃ r t, hostCall c s = .next (r, t) := by
  cases c with
  | hash m =>
    obtain ⟨rs, t, hrun, -⟩ := exists_runProgram_next (hashProgram m) s
    exact ⟨.bytes _, t, by rw [hostCall, hash, hrun]; rfl⟩
  | construct key nonce counter rounds =>
    obtain ⟨rs, t, hrun, -⟩ := exists_runProgram_next (constructProgram key nonce counter rounds) s
    exact ⟨.status _, t, by rw [hostCall, construct, if_pos (hrounds _ _ _ _ rfl), hrun]; rfl⟩
  | process data =>
    obtain ⟨rs, t, hrun, -⟩ := exists_runProgram_next (processProgram data) s
    exact ⟨.bytes _, t, by rw [hostCall, process, hrun]; rfl⟩
  | seek n =>
    obtain ⟨rs, t, hrun, -⟩ := exists_runProgram_next (seekProgram n) s
    exact ⟨.done, t, by rw [hostCall, seek, hrun]; rfl⟩
  | fastDecrypt => exact absurd rfl hfast

/-- Settles O53: the two refusals are the first thing their calls check, and every host program answers. -/
theorem hostCallsRefusedByName : Obligations.HostCallsRefusedByName := by
  refine fun c s => ⟨?_, ?_, fun hfast hrounds => exists_hostCall_next c s hfast fun key nonce counter rounds hc =>
    roundsInRange_eq_true_iff.mpr (hrounds key nonce counter rounds hc)⟩
  · rintro rfl
    rfl
  · rintro key nonce counter rounds rfl hout
    have hr : ¬ roundsInRange rounds = true := by
      rw [roundsInRange_eq_true_iff]
      omega
    rw [hostCall, construct, if_neg hr, andThen_refused]

end Sys2Proof.Machine
end
